-- ==== Sys2Proof/Word.lean ====
section
/-! DEFINITION. The words the part handles: bytes, 16-bit sequences and tags, 32-bit counts, and the
saturating increment of the counters (spec/00_scope.md 4.2 and 4.3, R159). -/

namespace Sys2Proof

/-- A byte of a frame or of a bank. -/
abbrev Byte := BitVec 8

/-- A 16-bit number: a sequence, a tag, a manager id, a notice serial. -/
abbrev Word16 := BitVec 16

/-- A 32-bit number: a counter, the millisecond count, a save count. -/
abbrev Word32 := BitVec 32

/-- A stream id or a station address, 0 to 4095. -/
abbrev Id12 := BitVec 12

/-- The distance from `a` to `b`, reckoned modulo 65536 (spec/00_scope.md 4.3). -/
def distance (a b : Word16) : Nat := (b - a).toNat

/-- One more, staying at the largest value once it is reached (R155, R156, R159, R161). -/
def satInc (n : Nat) (x : BitVec n) : BitVec n := if x = BitVec.allOnes n then x else x + 1

/-- The sum, staying at the largest value when it would pass it (R163). -/
def satAdd (n : Nat) (x y : BitVec n) : BitVec n :=
  if x.toNat + y.toNat < 2 ^ n then x + y else BitVec.allOnes n

/-- The number of whole blocks of `k` that hold `n`. -/
def ceilDiv (n k : Nat) : Nat := (n + k - 1) / k

end Sys2Proof
end

