-- ==== Sys2Proof/Syntax.lean ====
section
/-! DEFINITION. The commands of the CT-416: one constructor of `Instr` for each row of
spec/opcode_table.json. The table gives the rows no fields; the operands here are those the rules name
(log entries 6, 8, 12 and 15). -/

namespace Sys2Proof

/-- The three trunk ports. -/
inductive Port where
  | f0 | f1 | l
  deriving DecidableEq, Repr

/-- The two field ports. -/
inductive FPort where
  | f0 | f1
  deriving DecidableEq, Repr

/-- Partition sizes (R2, Table 1-5). -/
inductive PartSize where
  | p16 | p32 | p64
  deriving DecidableEq, Repr, Inhabited

/-- Damage policies (R57, Table 1-5). -/
inductive DamagePolicy where
  | whole | trim | mark
  deriving DecidableEq, Repr, Inhabited

/-- The states a slot may be in (R1). -/
inductive SlotState where
  | free | active | suspended
  deriving DecidableEq, Repr, Inhabited

/-- The entry record of Table 12-4 as its 18 bytes stand in a request: presence marks (bit i marks the
i-th field below) and the fields in order. -/
structure EntryRecord where
  marks       : Word16
  fieldId     : Word16
  lineId      : Word16
  size        : Byte
  policy      : Byte
  twinWait    : Word16
  jumpLimit   : Word16
  resyncRun   : Byte
  pathTimeout : Byte
  cls         : Byte
  burst       : Byte
  interval    : Byte
  initial     : Byte
  deriving DecidableEq, Repr

/-- The globals record of Table 12-5 as its 13 bytes stand in a request. -/
structure GlobalsRecord where
  marks   : Byte
  station : Word16
  limit0  : Word16
  limit1  : Word16
  limit2  : Word16
  limit3  : Word16
  lease   : Byte
  enables : Byte
  deriving DecidableEq, Repr

/-- The commands, in the table's order. In the request rows `m` is the manager id and `t` the tag. -/
inductive Instr where
  /-- POWER_ON: power rises (R168). -/
  | powerOn
  /-- POWER_LOSS: power fails (R172). -/
  | powerLoss
  /-- RSTN_ASSERTED: RSTn has been low for 1 µs (R168). -/
  | rstnAsserted
  /-- PIN_RESET: RSTn returns high after `lowNs` nanoseconds low (R180, log 8). -/
  | pinReset (lowNs : Nat)
  /-- START_UP_LOAD_END: the start-up load ends (R168). -/
  | startUpLoadEnd
  /-- SIGNAL_DETECTED: a signal is present on the port's receive pair (R87). -/
  | signalDetected (p : Port)
  /-- SIGNAL_LOST: the signal on the port's receive pair is lost (R88, R89). -/
  | signalLost (p : Port)
  /-- ALIGNMENT_WORD_RECEIVED: `ack` is the word's acknowledgment mark; with it set the word is idle fill (R86, R88). -/
  | alignmentWordReceived (p : Port) (ack : Bool)
  /-- ALIGNMENT_TIMER_RUN_OUT: the 10 ms alignment timer of the port runs out (R88). -/
  | alignmentTimerRunOut (p : Port)
  /-- LINE_CODE_ERROR: a line-code error is received, `sub` periods of 40 ns after the last millisecond tick (R89, log 12). -/
  | lineCodeError (p : Port) (sub : Nat)
  /-- START_MARKER_RECEIVED (R90). -/
  | startMarkerReceived (p : Port)
  /-- DATA_BYTE_RECEIVED (R90). -/
  | dataByteReceived (p : Port) (b : Byte)
  /-- ABORT_MARKER_RECEIVED (R91). -/
  | abortMarkerReceived (p : Port)
  /-- FRAME_RECEIVED: the end marker is received (R91, R92). -/
  | frameReceived (p : Port)
  /-- WAIT_TIMER_RUN_OUT: the wait timer of repair slot `r` runs out (R51). -/
  | waitTimerRunOut (r : Fin 8)
  /-- PATH_TIMER_RUN_OUT: the path timer of slot `k` on field port `p` runs out (R78). -/
  | pathTimerRunOut (k : Fin 64) (p : FPort)
  /-- INTERVAL_TIMER_RUN_OUT: the police interval timer of slot `k` runs out (R66). -/
  | intervalTimerRunOut (k : Fin 64)
  /-- TRANSMISSION_START (R96). -/
  | transmissionStart (p : Port)
  /-- TRANSMISSION_END: the end marker is sent (R96). -/
  | transmissionEnd (p : Port)
  /-- NOTICE_OFFER (R109). -/
  | noticeOffer
  /-- AGENT_TURN_END: the agent's 20 µs turn ends (R119). -/
  | agentTurnEnd
  /-- BAD_FRAME: the agent takes the request frame `bytes`, which fails the frame test (R120). -/
  | badFrame (bytes : List Byte)
  /-- UNKNOWN_REQUEST: a taken request with the unknown code `code` (R120). -/
  | unknownRequest (m t : Word16) (code : Byte)
  /-- IDENTIFY (R128). -/
  | identify (m t : Word16)
  /-- OPEN_SESSION (R123). -/
  | openSession (m t : Word16)
  /-- CLOSE_SESSION (R126). -/
  | closeSession (m t : Word16)
  /-- READ_ENTRY (R20, R129). -/
  | readEntry (m t : Word16) (slot : Byte)
  /-- READ_STREAM_COUNTERS (R129). -/
  | readStreamCounters (m t : Word16) (slot clear : Byte)
  /-- READ_PORT_COUNTERS (R130). -/
  | readPortCounters (m t : Word16) (clear page : Byte)
  /-- READ_FAULTS (R131). -/
  | readFaults (m t : Word16) (maximum : Byte)
  /-- STAGE_ENTRY (R138); `cfgPresent` is the configuration-present byte. -/
  | stageEntry (m t : Word16) (slot action cfgPresent : Byte) (rec : EntryRecord)
  /-- STAGE_GLOBALS (R139). -/
  | stageGlobals (m t : Word16) (rec : GlobalsRecord)
  /-- READ_STAGING (R132). -/
  | readStaging (m t : Word16) (first : Byte)
  /-- DISCARD_STAGING (R132). -/
  | discardStaging (m t : Word16)
  /-- COMMIT (R141). -/
  | commit (m t : Word16)
  /-- SAVE_IMAGE (R170). -/
  | saveImage (m t : Word16)
  /-- SEAL_IMAGE (R173). -/
  | sealImage (m t : Word16)
  /-- RESET_PART with kind TRAFFIC (R134). -/
  | resetPartTraffic (m t : Word16)
  /-- RESET_PART with kind FULL (R135). -/
  | resetPartFull (m t : Word16)
  /-- FULL_RESET: the pending FULL reset is taken (R135). -/
  | fullReset
  /-- COMMIT_END (R144, R145). -/
  | commitEnd
  /-- LEASE_TIMER_RUN_OUT (R124). -/
  | leaseTimerRunOut
  /-- BANK_ERASE_END: the erase phase of a save or seal ends (R171). -/
  | bankEraseEnd
  /-- BANK_WRITE_END: the write phase ends (R171). -/
  | bankWriteEnd
  /-- SAVE_END: the read back of a save ends; `misread` lists the bytes of the target, by address, that read
  otherwise than they were written (R171, log 15). -/
  | saveEnd (misread : List (Nat × Byte))
  /-- SEAL_END: the read back of a seal ends (R174, log 15). -/
  | sealEnd (misread : List (Nat × Byte))
  /-- MILLISECOND_COUNT_TICK (R154). -/
  | millisecondCountTick
  deriving DecidableEq, Repr

end Sys2Proof
end

