-- ==== Sys2Proof/WellFormed.lean ====
section
/-! DEFINITION. When a command's operands are ones the part's surroundings can give: one check for
each operand that its type does not bound. -/

namespace Sys2Proof

/-- How many bytes a bank holds (R179). -/
def bankSize : Nat := 1109

/-- How many 40 ns periods of the reference clock make a millisecond (12.4: 25 MHz). -/
def periodsPerMs : Nat := 25000

/-- The addresses rise strictly. -/
def risingAddresses : List (Nat × Byte) → Bool
  | [] => true
  | [_] => true
  | (a, _) :: (b, y) :: rest => decide (a < b) && risingAddresses ((b, y) :: rest)

/-- A read back names bytes of the bank, each once (R171, R179). -/
def misreadOk (l : List (Nat × Byte)) : Bool :=
  risingAddresses l && l.all (fun c => decide (c.1 < bankSize))

/-- The request codes of Table 12-2. -/
def knownRequestCode (c : Byte) : Bool := decide (1 ≤ c.toNat) && decide (c.toNat ≤ 15)

/-- Well-formed commands: an error's time lies within its millisecond (R89, R154), a request frame has
the length of a frame (R92), an unknown code is unknown (R120), a read back names bytes of a bank (R179). -/
def Instr.wf : Instr → Bool
  | .lineCodeError _ sub => decide (sub < periodsPerMs)
  | .badFrame bytes => decide (26 ≤ bytes.length) && decide (bytes.length ≤ 1064)
  | .unknownRequest _ _ code => !knownRequestCode code
  | .saveEnd l => misreadOk l
  | .sealEnd l => misreadOk l
  | _ => true

end Sys2Proof
end

