-- ==== Sys2Proof/Decode.lean ====
section
/-! DEFINITION. The command a word spells by the table's bits. No row of spec/opcode_table.json has
bits (98_reader.md: 0 rows with fields), so no word spells a command. -/

namespace Sys2Proof

/-- No row of the table gives bits: no word of any width is a command (log 21). -/
def decodeTableWord (_nbits _w : Nat) : Option Instr := none

end Sys2Proof
end

