-- ==== Sys2Proof/Config.lean ====
section
/-! DEFINITION. The free values: what the spec leaves open and the part then goes on with. Each is a
constant without a body, so nothing can be proved of its value. -/

namespace Sys2Proof

/-- How many milliseconds into the `n`-th start-up load that raises a fault the banks are read; used modulo 5 and up to the
count at the load's end (R168: 0 to 4; log 9). -/
opaque Config.loadReadTime : Nat → Nat

/-- The byte at an address of a bank whose erase or write was cut short, for the `n`-th such cut
(R172: bad or erased; log 14). -/
opaque Config.cutBankByte : Nat → Nat → Byte

/-- What a slot state byte other than 00h, 01h, 02h of a valid bank means (R166 says there is none; log 16). -/
opaque Config.unreadSlotState : Byte → SlotState

/-- What a partition size byte other than 16, 32, 64 of a valid bank means (R166; log 16). -/
opaque Config.unreadPartSize : Byte → PartSize

/-- What a damage policy byte other than 00h, 01h, 02h of a valid bank means (R166; log 16). -/
opaque Config.unreadPolicy : Byte → DamagePolicy

/-- What a class byte above 3 of a valid bank means (R166; log 16). -/
opaque Config.unreadClass : Byte → Fin 4

/-- What an id or station above 4095 in a valid bank means (R166; log 16). -/
opaque Config.unreadId : Word16 → Id12

end Sys2Proof
end

