-- ==== Sys2Proof/Machine/State.lean ====
section
/-! DEFINITION. The state of the CT-416: every piece of state the chapters give its blocks
(spec/00_scope.md Table 1-1), as plain data, and its value right after power-on. -/

namespace Sys2Proof.Machine

/-- One value for each field port. -/
structure PerField (α : Type) where
  f0 : α
  f1 : α
  deriving DecidableEq, Repr

/-- One value for each port. -/
structure PerPort (α : Type) where
  f0 : α
  f1 : α
  l  : α
  deriving DecidableEq, Repr

/-- One value for each bank of the retained image. -/
structure PerBank (α : Type) where
  a : α
  b : α
  deriving DecidableEq, Repr

/-! ### Stream table (Chapter 1) and the running state of a stream (Chapters 2, 4, 5) -/

/-- A configuration, with every field of Table 1-5 but the initial state, which is not stored (R2).
Twin wait in µs, path timeout and police interval in ms. -/
structure StreamConfig where
  fieldId     : Id12
  lineId      : Id12
  size        : PartSize
  policy      : DamagePolicy
  twinWait    : Word16
  jumpLimit   : Word16
  resyncRun   : Byte
  pathTimeout : Byte
  cls         : Fin 4
  burst       : Byte
  interval    : Byte
  deriving DecidableEq, Repr

/-- A member of an accepted set, with its late-twin mark (R21, R22). -/
structure Member where
  seq  : Word16
  mark : Option FPort
  deriving DecidableEq, Repr

/-- A non-empty history: top, and the accepted set ordered by the distance behind top (R21). -/
structure History where
  top     : Word16
  members : List Member
  deriving DecidableEq, Repr

/-- A resync candidate (R31). -/
structure Candidate where
  port : FPort
  next : Word16
  run  : Nat
  deriving DecidableEq, Repr

/-- A path record (R75): a timer runs only in UP, a lost-at time is present only in LOST. The timer of
an UP path is stopped (none) while its slot is SUSPENDED, else it has a duration in ms. -/
inductive Path where
  | fresh
  | up (timer : Option Byte)
  | lost (lostAt : Word32)
  deriving DecidableEq, Repr

/-- A stream: what a non-FREE slot holds (R1, R6, R7). The history is `none` while it is empty. The
interval timer is `none` while stopped, else it has its duration in ms (R66). -/
structure Stream where
  suspended     : Bool
  locked        : Bool
  cfg           : StreamConfig
  history       : Option History
  candidate     : Option Candidate
  paths         : PerField Path
  credits       : Byte
  intervalTimer : Option Byte
  counters      : Vector Word32 21
  deriving DecidableEq, Repr

/-- The per-stream counters (Table 10-2). -/
inductive StreamCtr where
  | forwarded
  | good (p : FPort)
  | damaged (p : FPort)
  | duplicate | lateTwin | stale | leap | resync | replaced | merged | trimmed | marked
  | damageDropped | discarded | policed | classFull | lineDown | formatMismatch | suspendedDrop
  deriving DecidableEq, Repr

/-- The per-port counters (Table 10-3). -/
inductive PortCtr where
  | framesReceived | headerError | malformed | aborted | poolEmpty | txAborted | framesSent
  deriving DecidableEq, Repr

/-- The egress queues (Table 7-3). -/
inductive QueueId where
  | lane
  | cls (c : Fin 4)
  | command (p : FPort)
  deriving DecidableEq, Repr

/-- The global counters (Table 10-4). -/
inductive GlobalCtr where
  | unknownStream | fieldControl | lineData | repairFull | requestOverflow | responseDropped | laneFull
  | flushed (q : QueueId)
  | classFull (c : Fin 4)
  | fieldQueueFull (p : FPort)
  | noticesLost
  deriving DecidableEq, Repr

/-- The globals of Table 9-1. Enables: bit 0 PATH_LOST to bit 6 FAULTS_PENDING (Table 12-5). -/
structure Globals where
  station      : Id12
  limits       : Vector Word16 4
  leaseTimeout : Byte
  enables      : BitVec 7
  deriving DecidableEq, Repr

/-! ### Frames, the buffer pool, ports and queues (Chapters 6, 7) -/

/-- The number of a cell of the pool (R101). -/
abbrev CellId := Fin 256

/-- A frame the pool knows: its bytes, hence its length, and its cells in order (R101). -/
structure Frame where
  bytes : List Byte
  cells : List CellId
  deriving DecidableEq, Repr

/-- What built a frame: whom its transmission end is reported to (R114). A response carries whether it is
the OK of a RESET_PART FULL (R135), a notice frame the lost count kept with it (R162, R163). -/
inductive Origin where
  | data
  | command
  | passThrough
  | response (fullReset : Bool)
  | notice (lost : Word16)
  deriving DecidableEq, Repr

/-- A frame in an egress queue or in transmission. -/
structure Queued where
  frame  : Frame
  origin : Origin
  deriving DecidableEq, Repr

/-- Link states (R87 to R89). ALIGNING: the run of alignment words, whether it has reached 4 (then the
outgoing words carry the acknowledgment mark), whether a word with the mark set has been received; the
10 ms timer runs exactly in ALIGNING. UP: the times of the kept line-code errors, in 40 ns periods. -/
inductive Link where
  | down
  | aligning (run : Nat) (reached acked : Bool)
  | up (errors : List Nat)
  deriving DecidableEq, Repr

/-- A reception in progress: the bytes so far and the cells taken (R90). -/
structure Reception where
  bytes : List Byte
  cells : List CellId
  deriving DecidableEq, Repr

/-- How a transmission was closed (R96, R97): end marker, abort marker, or cut by a link loss. -/
inductive TxEnd where
  | endMarker | abortMarker | cut
  deriving DecidableEq, Repr

/-- One port (Chapter 6). `signal`: a signal is present on the receive pair (R87). `lastEnd` is the
model's own observation of the transmitter (log 20). -/
structure PortState where
  signal    : Bool
  link      : Link
  reception : Option Reception
  tx        : Option Queued
  counters  : Vector Word32 7
  lastEnd   : Option TxEnd
  deriving DecidableEq, Repr

/-- A HOLDING repair slot (R44); the wait timer's duration in µs. -/
structure Held where
  slot  : Fin 64
  seq   : Word16
  port  : FPort
  count : Nat
  good  : List Bool
  frame : Frame
  wait  : Word16
  deriving DecidableEq, Repr

/-! ### Management agent, staging, operations (Chapters 8, 9, 11) -/

/-- The lease and its timer: `none` while stopped, else its duration in steps of 100 ms (R123, R124). -/
structure Lease where
  holder : Word16
  timer  : Option Byte
  deriving DecidableEq, Repr

/-- The entry of the response cache: a tag and the response's payload (R121). -/
structure CacheEntry where
  tag     : Word16
  content : List Byte
  deriving DecidableEq, Repr

/-- The management agent (Table 8-4). -/
structure Agent where
  requests    : List Frame
  busy        : Bool
  lease       : Option Lease
  cache       : Option CacheEntry
  fullPending : Bool
  deriving DecidableEq, Repr

/-- The fields of a staged configuration; an absent field carries no value (R2, R140). -/
structure EntryFields where
  fieldId     : Option Word16
  lineId      : Option Word16
  size        : Option Byte
  policy      : Option Byte
  twinWait    : Option Word16
  jumpLimit   : Option Word16
  resyncRun   : Option Byte
  pathTimeout : Option Byte
  cls         : Option Byte
  burst       : Option Byte
  interval    : Option Byte
  initial     : Option Byte
  deriving DecidableEq, Repr

/-- The fields of a staged globals record (R139). -/
structure GlobalsFields where
  station : Option Word16
  limit0  : Option Word16
  limit1  : Option Word16
  limit2  : Option Word16
  limit3  : Option Word16
  lease   : Option Byte
  enables : Option (BitVec 7)
  deriving DecidableEq, Repr

/-- The actions of a slot record (R137). -/
inductive Action where
  | install | modify | retire | suspend | resume | lock
  deriving DecidableEq, Repr

/-- A record of the staging area (R137). -/
inductive Staged where
  | entry (slot : Fin 64) (action : Action) (fields : Option EntryFields)
  | globals (fields : GlobalsFields)
  deriving DecidableEq, Repr

/-- The two banks (R165). -/
inductive BankId where
  | a | b
  deriving DecidableEq, Repr

/-- The phase a save or seal is in (R171). -/
inductive BankPhase where
  | erase | write | readBack
  deriving DecidableEq, Repr

/-- A save or a seal in progress: target, phase, the 1109 bytes to write, the save count among them, and
the holder that started it (R170, R171, R173). -/
structure BankJob where
  target    : BankId
  phase     : BankPhase
  bytes     : List Byte
  saveCount : Word32
  manager   : Word16
  deriving DecidableEq, Repr

/-- The long operation in progress (R122); a commit has the set it took and its holder (R141, R152). -/
inductive Operation where
  | idle
  | commit (records : List Staged) (manager : Word16)
  | save (job : BankJob)
  | seal (job : BankJob)
  deriving DecidableEq, Repr

/-- Image states (R167). -/
inductive ImageState where
  | blank | valid | sealed | corrupt
  deriving DecidableEq, Repr

/-- The contents of a bank, byte by byte: pairs of address and byte, addresses rising, none of them FFh,
the byte an unlisted address reads as (R179). -/
abbrev Memory := List Host.Cell

/-! ### Diagnostic log (Chapter 10) -/

/-- Fault kinds (Table 10-1). -/
inductive FaultKind where
  | headerError | malformed | poolEmpty | unknownStream | formatMismatch | fieldControl | damageDropped
  | twinMismatch | repairFull | streamResync | imageBankBad | imageCorrupt | saveFailed
  deriving DecidableEq, Repr

/-- A fault record (R155). -/
structure FaultRecord where
  kind      : FaultKind
  port      : Option Port
  fieldId   : Option Id12
  seq       : Option Word16
  part      : Option Nat
  firstTime : Word32
  lastTime  : Word32
  repeats   : Byte
  deriving DecidableEq, Repr

/-- Why a commit was rejected (Table 9-2). -/
inductive CommitReason where
  | slotState | entryLocked | fieldIdChanged | fieldIdTaken | lineIdTaken
  deriving DecidableEq, Repr

/-- The result of a commit; REJECTED with the index of the failing record and the reason (R152). -/
inductive CommitResult where
  | applied
  | rejected (index : Nat) (reason : CommitReason)
  deriving DecidableEq, Repr

/-- Notice kinds with their contents (Table 10-5). What FAULTS_PENDING carries is read when its frame is
built (R157). -/
inductive NoticeBody where
  | pathLost (slot : Fin 64) (fieldId : Id12) (port : FPort) (timeout : Byte) (lostAt : Word32)
  | pathRestored (slot : Fin 64) (fieldId : Id12) (port : FPort) (lostAt time : Word32)
  | portDown (port : FPort) (time : Word32) (count : Nat)
  | portUp (port : FPort) (time : Word32)
  | streamResync (slot : Fin 64) (fieldId : Id12) (port : FPort) (oldTop seq : Word16)
  | sessionExpired (manager : Word16)
  | faultsPending
  | commitDone (result : CommitResult) (generation : Word16) (setSize : Nat) (manager : Word16)
  | saveDone (ok : Bool) (bank : BankId) (saveCount : Word32) (image : ImageState) (manager : Word16)
  | sealDone (ok : Bool) (bank : BankId) (saveCount : Word32) (image : ImageState) (manager : Word16)
  deriving DecidableEq, Repr

/-- A record of the notice queue (R161). -/
structure NoticeRecord where
  body : NoticeBody
  time : Word32
  deriving DecidableEq, Repr

/-- Where the part stands between its resets (R168): without power; held in reset while RSTn is low; in
the start-up load; running. -/
inductive Phase where
  | off | held | loading | running
  deriving DecidableEq, Repr

end Sys2Proof.Machine

namespace Sys2Proof.Machine

/-- The state of the part. `rstnLow`: RSTn has been low for 1 µs. `uptime`: milliseconds since the reset was
taken, without the wrap of `count` (log 12). `freeIx` numbers the free values drawn (log 9, 14, 15). -/
structure State where
  phase       : Phase
  rstnLow     : Bool
  count       : Word32
  uptime      : Nat
  slots       : Vector (Option Stream) 64
  generation  : Word16
  globals     : Globals
  repair      : Vector (Option Held) 8
  ports       : PerPort PortState
  free        : List CellId
  lane        : List Queued
  classes     : Vector (List Queued) 4
  command     : PerField (List Queued)
  agent       : Agent
  staging     : List Staged
  op          : Operation
  faults      : List FaultRecord
  overflow    : Word16
  globalCtrs  : Vector Word32 21
  notices     : List NoticeRecord
  noticesLost : Word16
  serial      : Word16
  banks       : PerBank Memory
  imageState  : ImageState
  freeIx      : Nat
  pending     : List Instr
  deriving DecidableEq, Repr

/-- The reasons a step may stop the machine. The part itself stops at none (Chapter 10). -/
inductive Fault where
  /-- Raised by SAVE_END and SEAL_END when their operand names a byte at an address no bank has (R179: 1109
  bytes). Safe: the hardware has no such read (log 23). -/
  | noSuchBankByte (address : Nat)
  deriving DecidableEq, Repr

/-- The reasons a command is refused. -/
inductive Refusal where
  /-- Raised by `exec` alone, for a row of the table that has no meaning yet: no row is left. Safe. -/
  | notModelled (mnemonic : String)
  deriving DecidableEq, Repr

/-- The defaults of Table 9-1. -/
def Globals.default : Globals :=
  { station := 0#12, limits := #v[96#16, 64#16, 48#16, 32#16], leaseTimeout := 20#8, enables := 127#7 }

/-- A port after power-on, pin reset or FULL reset (Table 6-4). -/
def PortState.reset : PortState :=
  { signal := false, link := .down, reception := none, tx := none,
    counters := Vector.replicate 7 0#32, lastEnd := none }

/-- The agent after power-on, pin reset or FULL reset (Table 8-4). -/
def Agent.reset : Agent :=
  { requests := [], busy := false, lease := none, cache := none, fullPending := false }

/-- The numbers of the pool's 256 cells. -/
def allCells : List CellId := (List.range 256).map (Fin.ofNat 256)

/-- The part right after power-on, its start-up load having read two erased banks (R168, R169; log 9, 10). -/
def State.reset : State :=
  { phase := .loading, rstnLow := false, count := 0#32, uptime := 0,
    slots := Vector.replicate 64 none, generation := 1#16, globals := Globals.default,
    repair := Vector.replicate 8 none,
    ports := ⟨PortState.reset, PortState.reset, PortState.reset⟩,
    free := allCells, lane := [], classes := Vector.replicate 4 [], command := ⟨[], []⟩,
    agent := Agent.reset, staging := [], op := .idle,
    faults := [], overflow := 0#16, globalCtrs := Vector.replicate 21 0#32,
    notices := [], noticesLost := 0#16, serial := 0#16,
    banks := ⟨[], []⟩, imageState := .blank, freeIx := 0, pending := [] }

end Sys2Proof.Machine
end

