-- ==== Sys2Proof/Machine/Bytes.lean ====
section
/-! DEFINITION. Byte order and the three cyclic checks: numbers are sent most significant byte first
(Chapter 12), partition check R41, header check R72, check word R166. -/

namespace Sys2Proof.Machine

/-- A 16-bit number as two bytes, most significant first (Chapter 12). -/
def be16 (x : Word16) : List Byte := [x.extractLsb' 8 8, x.extractLsb' 0 8]

/-- A 32-bit number as four bytes, most significant first (Chapter 12). -/
def be32 (x : Word32) : List Byte :=
  [x.extractLsb' 24 8, x.extractLsb' 16 8, x.extractLsb' 8 8, x.extractLsb' 0 8]

/-- A small number as one byte. -/
def byteOf (n : Nat) : Byte := BitVec.ofNat 8 n

/-- The byte at an offset; a payload byte beyond the end reads 00h (R177 pads with 00h). -/
def byteAt (l : List Byte) (i : Nat) : Byte := l.getD i 0#8

/-- The 16-bit number at an offset, most significant byte first. -/
def word16At (l : List Byte) (i : Nat) : Word16 := byteAt l i ++ byteAt l (i + 1)

/-- The 32-bit number at an offset, most significant byte first. -/
def word32At (l : List Byte) (i : Nat) : Word32 := word16At l i ++ word16At l (i + 2)

/-- The bytes from an offset, cut or filled with 00h to `n` bytes. -/
def bytesAt (l : List Byte) (i n : Nat) : List Byte := (List.range n).map (fun j => byteAt l (i + j))

/-- One bit of a cyclic check: the register is shifted and the generator applied when the bit leaving
differs from the bit fed. -/
def crcBit {w : Nat} (poly reg : BitVec w) (bit : Bool) : BitVec w :=
  if reg.msb != bit then (reg <<< 1) ^^^ poly else reg <<< 1

/-- A byte fed most significant bit first (R41, R72, R166). -/
def crcByte {w : Nat} (poly reg : BitVec w) (b : Byte) : BitVec w :=
  [7, 6, 5, 4, 3, 2, 1, 0].foldl (fun r i => crcBit poly r (b.getLsbD i)) reg

/-- The register after a list of bytes. -/
def crc {w : Nat} (poly preset : BitVec w) (bytes : List Byte) : BitVec w :=
  bytes.foldl (crcByte poly) preset

/-- The partition check: x^16+x^12+x^5+1, preset FFFFh (R41). -/
def crc16 (bytes : List Byte) : Word16 := crc 0x1021#16 0xFFFF#16 bytes

/-- The header check: x^8+x^2+x+1, preset 00h (R72). -/
def crc8 (bytes : List Byte) : Byte := crc 0x07#8 0x00#8 bytes

/-- The check word: 04C11DB7h, preset FFFFFFFFh (R166). -/
def crc32 (bytes : List Byte) : Word32 := crc 0x04C11DB7#32 0xFFFFFFFF#32 bytes

end Sys2Proof.Machine
end

