-- ==== Sys2Proof/Machine/Memory.lean ====
section
/-! DEFINITION. A bank as an addressed buffer: reading and writing single bytes, and the canonical form
that makes equal contents equal data (R165, R179). -/

namespace Sys2Proof.Machine

/-- What an unlisted address reads as: the byte of an erased bank (R179). -/
def erasedByte : Byte := 0xFF#8

/-- The byte at an address. -/
def Memory.read : Memory → Nat → Byte
  | [], _ => erasedByte
  | (k, b) :: rest, a => if k = a then b else Memory.read rest a

/-- The memory with the byte at one address replaced; the entry goes when the byte is FFh. -/
def Memory.write : Memory → Nat → Byte → Memory
  | [], a, v => if v = erasedByte then [] else [(a, v)]
  | (k, b) :: rest, a, v =>
    if a < k then (if v = erasedByte then (k, b) :: rest else (a, v) :: (k, b) :: rest)
    else if a = k then (if v = erasedByte then rest else (k, v) :: rest)
    else (k, b) :: Memory.write rest a v

/-- The canonical form: addresses rise strictly from `lo` on and no entry is FFh. -/
def Memory.wfFrom : Nat → Memory → Bool
  | _, [] => true
  | lo, (k, b) :: rest => decide (lo ≤ k) && (b != erasedByte) && Memory.wfFrom (k + 1) rest

/-- The canonical form. -/
def Memory.wf (m : Memory) : Bool := Memory.wfFrom 0 m

/-- The memory that holds a list of bytes from address `a` on. -/
def Memory.ofBytesFrom : Nat → List Byte → Memory
  | _, [] => []
  | a, b :: rest =>
    if b = erasedByte then Memory.ofBytesFrom (a + 1) rest else (a, b) :: Memory.ofBytesFrom (a + 1) rest

/-- The memory that holds a list of bytes from address 0 on. -/
def Memory.ofBytes (l : List Byte) : Memory := Memory.ofBytesFrom 0 l

/-- The bank's 1109 bytes in order (R179). -/
def Memory.bytes (m : Memory) : List Byte := (List.range bankSize).map m.read

/-- A bank with some of its bytes replaced, as it reads back (R171, log 15). -/
def Memory.patch (m : Memory) (l : List (Nat × Byte)) : Memory :=
  l.foldl (fun m c => Memory.write m c.1 c.2) m

end Sys2Proof.Machine
end

