-- ==== Sys2Proof/Machine/Frames.lean ====
section
/-! DEFINITION. The trunk frame: header fields, partitions and their checks, and the management frames
the part builds itself (R41, R72, R117, R162, R176, Tables 12-1 and 12-2). -/

namespace Sys2Proof.Machine

/-- The other field port. -/
def otherPort : FPort → FPort
  | .f0 => .f1
  | .f1 => .f0

/-- A field port as a port. -/
def portOf : FPort → Port
  | .f0 => .f0
  | .f1 => .f1

/-- The field port a port is, if it is one. -/
def fieldPort? : Port → Option FPort
  | .f0 => some .f0
  | .f1 => some .f1
  | .l => none

/-- Port codes (Table 12-2). -/
def portCode : Port → Byte
  | .f0 => 0#8
  | .f1 => 1#8
  | .l => 2#8

/-- Frame kinds. -/
inductive Kind where
  | data | command | mgmtReq | mgmtRsp | mgmtNotice
  deriving DecidableEq, Repr

/-- Kind codes (Table 12-2). -/
def kindCode : Kind → Byte
  | .data => 1#8
  | .command => 2#8
  | .mgmtReq => 3#8
  | .mgmtRsp => 4#8
  | .mgmtNotice => 5#8

/-- The kind a kind field names; 0 and 6 to 15 are unknown (R176). -/
def kindOfCode (c : Byte) : Option Kind :=
  if c = 1#8 then some .data
  else if c = 2#8 then some .command
  else if c = 3#8 then some .mgmtReq
  else if c = 4#8 then some .mgmtRsp
  else if c = 5#8 then some .mgmtNotice
  else none

/-- Payload bytes of one partition. -/
def sizeBytes : PartSize → Nat
  | .p16 => 16
  | .p32 => 32
  | .p64 => 64

/-- The size that bits 7 and 6 of header byte 0 name; 11b is invalid (Table 12-1). -/
def sizeOfCode (b0 : Byte) : Option PartSize :=
  let c := b0.extractLsb' 6 2
  if c = 0#2 then some .p16 else if c = 1#2 then some .p32 else if c = 2#2 then some .p64 else none

/-- The kind field of a frame: bits 3 to 0 of byte 0. -/
def frameKind (f : List Byte) : Option Kind := kindOfCode (byteAt f 0 &&& 0x0F#8)

/-- The partition count, 1 to 16: the field in bits 15 to 12 of bytes 2 and 3, plus one. -/
def frameCount (f : List Byte) : Nat := ((word16At f 2).extractLsb' 12 4).toNat + 1

/-- The stream id, or the station: bits 11 to 0 of bytes 2 and 3. -/
def frameId (f : List Byte) : Id12 := (word16At f 2).extractLsb' 0 12

/-- The sequence, tag or notice serial: bytes 4 and 5. -/
def frameSeq (f : List Byte) : Word16 := word16At f 4

/-- The header check agrees with bytes 0 to 6 (R72, R92). -/
def headerSound (f : List Byte) : Bool := crc8 (f.take 7) == byteAt f 7

/-- The length of a frame of `count` partitions of `size` bytes (R40). -/
def frameLength (size count : Nat) : Nat := 8 + count * (size + 2)

/-- Partition `i` with its two check bytes (R176). -/
def partWithCheck (f : List Byte) (size i : Nat) : List Byte := (f.drop (8 + i * (size + 2))).take (size + 2)

/-- The payload of partition `i` (R176). -/
def partPayload (f : List Byte) (size i : Nat) : List Byte := (f.drop (8 + i * (size + 2))).take size

/-- Partition `i` passes its check (R41). -/
def partGood (f : List Byte) (size i : Nat) : Bool :=
  crc16 (partPayload f size i) == word16At (partWithCheck f size i) size

/-- The good-map of a frame (R42). -/
def goodMap (f : List Byte) (size count : Nat) : List Bool := (List.range count).map (partGood f size)

/-- A header with its check appended (R72, Table 12-1). -/
def header (b0 b1 : Byte) (count : Nat) (id : Id12) (seq : Word16) (stamp : Byte) : List Byte :=
  let h := [b0, b1] ++ be16 (BitVec.ofNat 4 (count - 1) ++ id) ++ be16 seq ++ [stamp]
  h ++ [crc8 h]

/-- How many partitions of 32 bytes a payload needs, at least one (R177). -/
def partsFor (payload : List Byte) : Nat := max 1 (ceilDiv payload.length 32)

/-- A management frame the part builds: size code 32, no flags, via port and stamp 0, fewest partitions,
the last filled with 00h, all checks computed (R117, R162, R176, R177). -/
def mgmtFrame (kind : Kind) (station : Id12) (seq : Word16) (payload : List Byte) : List Byte :=
  let n := partsFor payload
  header (0x40#8 ||| kindCode kind) 0#8 n station seq 0#8 ++
    (List.range n).flatMap (fun i => let p := bytesAt payload (32 * i) 32; p ++ be16 (crc16 p))

/-- The payload of a management frame: its partitions in order without their checks (R177). -/
def mgmtPayload (f : List Byte) : List Byte :=
  (List.range (frameCount f)).flatMap (fun i => bytesAt f (8 + 34 * i) 32)

/-- Step 1 of Table 8-1: size code 32, 1 to 4 partitions, the length they need, every partition good (R120). -/
def requestFrameOk (f : List Byte) : Bool :=
  (sizeOfCode (byteAt f 0) == some .p32) && decide (frameCount f ≤ 4) &&
    (f.length == frameLength 32 (frameCount f)) && (goodMap f 32 (frameCount f)).all id

end Sys2Proof.Machine
end

