-- ==== Sys2Proof/Machine/Operands.lean ====
section
/-! DEFINITION. Operand forms: requests and their arguments (Table 12-3), the entry record and the globals
record with their presence marks and ranges (R2, R138, R139, Tables 12-4 and 12-5), and the codes that
responses and notices carry (Table 12-2). -/

namespace Sys2Proof.Machine

/-! ### Codes -/

/-- Partition size as the number 16, 32 or 64 (Table 12-4). -/
def partSizeByte : PartSize → Byte
  | .p16 => 16#8
  | .p32 => 32#8
  | .p64 => 64#8

/-- The partition size a byte gives. -/
def partSizeOfByte (b : Byte) : Option PartSize :=
  if b = 16#8 then some .p16 else if b = 32#8 then some .p32 else if b = 64#8 then some .p64 else none

/-- Damage policy codes (Table 12-2). -/
def policyCode : DamagePolicy → Byte
  | .whole => 0#8
  | .trim => 1#8
  | .mark => 2#8

/-- The damage policy a code gives. -/
def policyOfCode (b : Byte) : Option DamagePolicy :=
  if b = 0#8 then some .whole else if b = 1#8 then some .trim else if b = 2#8 then some .mark else none

/-- The class a byte gives, 0 to 3. -/
def classOfByte (b : Byte) : Option (Fin 4) :=
  if h : b.toNat < 4 then some ⟨b.toNat, h⟩ else none

/-- The id a 16-bit field gives, 0 to 4095. -/
def idOfWord (w : Word16) : Option Id12 := if w.toNat ≤ 4095 then some (w.setWidth 12) else none

/-- Slot state codes (Table 12-2). -/
def slotStateCode : SlotState → Byte
  | .free => 0#8
  | .active => 1#8
  | .suspended => 2#8

/-- The slot state a code gives. -/
def slotStateOfCode (b : Byte) : Option SlotState :=
  if b = 0#8 then some .free else if b = 1#8 then some .active else if b = 2#8 then some .suspended else none

/-- Action codes (Table 12-2). -/
def actionCode : Action → Byte
  | .install => 1#8
  | .modify => 2#8
  | .retire => 3#8
  | .suspend => 4#8
  | .resume => 5#8
  | .lock => 6#8

/-- The action a code names. -/
def actionOfCode (b : Byte) : Option Action :=
  if b = 1#8 then some .install
  else if b = 2#8 then some .modify
  else if b = 3#8 then some .retire
  else if b = 4#8 then some .suspend
  else if b = 5#8 then some .resume
  else if b = 6#8 then some .lock
  else none

/-- Image state codes (Table 12-2). -/
def imageCode : ImageState → Byte
  | .blank => 0#8
  | .valid => 1#8
  | .sealed => 2#8
  | .corrupt => 3#8

/-- Bank codes (Table 12-8): 00h A, 01h B. -/
def bankCode : BankId → Byte
  | .a => 0#8
  | .b => 1#8

/-- Operation codes (Table 12-2). -/
def operationCode : Operation → Byte
  | .idle => 0#8
  | .commit _ _ => 1#8
  | .save _ => 2#8
  | .seal _ => 3#8

/-- Path state codes (Table 12-2). -/
def pathCode : Path → Byte
  | .fresh => 0#8
  | .up _ => 1#8
  | .lost _ => 2#8

/-- Fault kind codes (Table 12-2). -/
def faultCode : FaultKind → Byte
  | .headerError => 1#8
  | .malformed => 2#8
  | .poolEmpty => 3#8
  | .unknownStream => 4#8
  | .formatMismatch => 5#8
  | .fieldControl => 6#8
  | .damageDropped => 7#8
  | .twinMismatch => 8#8
  | .repairFull => 9#8
  | .streamResync => 10#8
  | .imageBankBad => 11#8
  | .imageCorrupt => 12#8
  | .saveFailed => 13#8

/-- Commit reason codes (Table 12-2). -/
def reasonCode : CommitReason → Byte
  | .slotState => 1#8
  | .entryLocked => 2#8
  | .fieldIdChanged => 3#8
  | .fieldIdTaken => 4#8
  | .lineIdTaken => 5#8

/-- Response statuses. -/
inductive Status where
  | ok | started | busy | noSession | held | stagingFull | entryLocked | badArgument | badFrame
  | unknownRequest | nothingStaged | imageSealed | imageNotValid
  deriving DecidableEq, Repr

/-- Status codes (Table 12-2). -/
def statusCode : Status → Byte
  | .ok => 0#8
  | .started => 1#8
  | .busy => 2#8
  | .noSession => 3#8
  | .held => 4#8
  | .stagingFull => 5#8
  | .entryLocked => 6#8
  | .badArgument => 7#8
  | .badFrame => 8#8
  | .unknownRequest => 9#8
  | .nothingStaged => 10#8
  | .imageSealed => 11#8
  | .imageNotValid => 12#8

/-! ### Entry record (Table 12-4) -/

/-- The record as it stands in a payload from an offset on. -/
def entryRecordAt (l : List Byte) (i : Nat) : EntryRecord :=
  { marks := word16At l i, fieldId := word16At l (i + 2), lineId := word16At l (i + 4),
    size := byteAt l (i + 6), policy := byteAt l (i + 7), twinWait := word16At l (i + 8),
    jumpLimit := word16At l (i + 10), resyncRun := byteAt l (i + 12), pathTimeout := byteAt l (i + 13),
    cls := byteAt l (i + 14), burst := byteAt l (i + 15), interval := byteAt l (i + 16),
    initial := byteAt l (i + 17) }

/-- The 18 bytes of a record. -/
def entryRecordBytes (r : EntryRecord) : List Byte :=
  be16 r.marks ++ be16 r.fieldId ++ be16 r.lineId ++ [r.size, r.policy] ++ be16 r.twinWait ++ be16 r.jumpLimit ++
    [r.resyncRun, r.pathTimeout, r.cls, r.burst, r.interval, r.initial]

/-- A field behind its presence mark: a clear mark carries no value (R177). -/
def marked {α : Type} (present : Bool) (x : α) : Option α := if present then some x else none

/-- The fields a record carries (R177). -/
def entryFields (r : EntryRecord) : EntryFields :=
  let m := fun i => r.marks.getLsbD i
  { fieldId := marked (m 0) r.fieldId, lineId := marked (m 1) r.lineId, size := marked (m 2) r.size,
    policy := marked (m 3) r.policy, twinWait := marked (m 4) r.twinWait, jumpLimit := marked (m 5) r.jumpLimit,
    resyncRun := marked (m 6) r.resyncRun, pathTimeout := marked (m 7) r.pathTimeout, cls := marked (m 8) r.cls,
    burst := marked (m 9) r.burst, interval := marked (m 10) r.interval, initial := marked (m 11) r.initial }

/-- Presence marks from bit 0 upward. -/
def marksOf : List Bool → Word16
  | [] => 0#16
  | b :: rest => (marksOf rest <<< 1) ||| (if b then 1#16 else 0#16)

/-- The record that carries just these fields; an absent field is sent as 00h (R140, R177). -/
def entryRecordOf (f : EntryFields) : EntryRecord :=
  { marks := marksOf [f.fieldId.isSome, f.lineId.isSome, f.size.isSome, f.policy.isSome, f.twinWait.isSome,
      f.jumpLimit.isSome, f.resyncRun.isSome, f.pathTimeout.isSome, f.cls.isSome, f.burst.isSome,
      f.interval.isSome, f.initial.isSome],
    fieldId := f.fieldId.getD 0#16, lineId := f.lineId.getD 0#16, size := f.size.getD 0#8,
    policy := f.policy.getD 0#8, twinWait := f.twinWait.getD 0#16, jumpLimit := f.jumpLimit.getD 0#16,
    resyncRun := f.resyncRun.getD 0#8, pathTimeout := f.pathTimeout.getD 0#8, cls := f.cls.getD 0#8,
    burst := f.burst.getD 0#8, interval := f.interval.getD 0#8, initial := f.initial.getD 0#8 }

/-- The record that reports a live configuration: every field but the initial state (Table 12-6). -/
def entryRecordOfConfig (c : StreamConfig) : EntryRecord :=
  { marks := 0x07FF#16, fieldId := c.fieldId.setWidth 16, lineId := c.lineId.setWidth 16,
    size := partSizeByte c.size, policy := policyCode c.policy, twinWait := c.twinWait,
    jumpLimit := c.jumpLimit, resyncRun := c.resyncRun, pathTimeout := c.pathTimeout,
    cls := byteOf c.cls.val, burst := c.burst, interval := c.interval, initial := 0#8 }

/-- `x` when it lies from `lo` to `hi`. -/
def inRange {w : Nat} (lo hi : Nat) (x : BitVec w) : Option (BitVec w) :=
  if lo ≤ x.toNat ∧ x.toNat ≤ hi then some x else none

/-- A twin wait: 0 to 2040 µs, a multiple of 8 (R2). -/
def twinWaitOk (x : Word16) : Option Word16 := if x.toNat ≤ 2040 ∧ x.toNat % 8 = 0 then some x else none

/-- The configuration that fields give: required fields present, every field in range, the others at the
defaults of Table 1-5 (R2). -/
def configOf (f : EntryFields) : Option StreamConfig := do
  let fieldId ← f.fieldId >>= idOfWord
  let lineId ← f.lineId >>= idOfWord
  let size ← f.size >>= partSizeOfByte
  let policy ← policyOfCode (f.policy.getD 0#8)
  let twinWait ← twinWaitOk (f.twinWait.getD 200#16)
  let jumpLimit ← inRange 1 1024 (f.jumpLimit.getD 64#16)
  let resyncRun ← inRange 2 7 (f.resyncRun.getD 3#8)
  let pathTimeout ← inRange 1 255 (f.pathTimeout.getD 20#8)
  let cls ← classOfByte (f.cls.getD 2#8)
  let interval ← inRange 1 100 (f.interval.getD 10#8)
  some { fieldId, lineId, size, policy, twinWait, jumpLimit, resyncRun, pathTimeout, cls,
         burst := f.burst.getD 0#8, interval }

/-- The initial state fields give, ACTIVE when absent (R2, Table 12-4): whether it is SUSPENDED. -/
def initialSuspended (f : EntryFields) : Option Bool :=
  let b := f.initial.getD 1#8
  if b = 1#8 then some false else if b = 2#8 then some true else none

/-- The configuration check of a STAGE_ENTRY (R138, check 1). -/
def entryOk (action : Action) (fields : Option EntryFields) : Bool :=
  match action, fields with
  | .install, some f => (configOf f).isSome && (initialSuspended f).isSome
  | .modify, some f => (configOf f).isSome && f.initial.isNone
  | .install, none => false
  | .modify, none => false
  | .retire, f => f.isNone
  | .suspend, f => f.isNone
  | .resume, f => f.isNone
  | .lock, f => f.isNone

/-! ### Globals record (Table 12-5) -/

/-- The record as it stands in a payload from an offset on. -/
def globalsRecordAt (l : List Byte) (i : Nat) : GlobalsRecord :=
  { marks := byteAt l i, station := word16At l (i + 1), limit0 := word16At l (i + 3), limit1 := word16At l (i + 5),
    limit2 := word16At l (i + 7), limit3 := word16At l (i + 9), lease := byteAt l (i + 11),
    enables := byteAt l (i + 12) }

/-- The 13 bytes of a record. -/
def globalsRecordBytes (r : GlobalsRecord) : List Byte :=
  [r.marks] ++ be16 r.station ++ be16 r.limit0 ++ be16 r.limit1 ++ be16 r.limit2 ++ be16 r.limit3 ++
    [r.lease, r.enables]

/-- The fields a globals record carries; bit 7 of the enables is not read (R177). -/
def globalsFields (r : GlobalsRecord) : GlobalsFields :=
  let m := fun i => r.marks.getLsbD i
  { station := marked (m 0) r.station, limit0 := marked (m 1) r.limit0, limit1 := marked (m 2) r.limit1,
    limit2 := marked (m 3) r.limit2, limit3 := marked (m 4) r.limit3, lease := marked (m 5) r.lease,
    enables := marked (m 6) (r.enables.setWidth 7) }

/-- The record that carries just these fields (R140, R177). -/
def globalsRecordOf (f : GlobalsFields) : GlobalsRecord :=
  { marks := (marksOf [f.station.isSome, f.limit0.isSome, f.limit1.isSome, f.limit2.isSome, f.limit3.isSome,
      f.lease.isSome, f.enables.isSome]).setWidth 8,
    station := f.station.getD 0#16, limit0 := f.limit0.getD 0#16, limit1 := f.limit1.getD 0#16,
    limit2 := f.limit2.getD 0#16, limit3 := f.limit3.getD 0#16, lease := f.lease.getD 0#8,
    enables := (f.enables.getD 0#7).setWidth 8 }

/-- A field is absent, or lies from `lo` to `hi`. -/
def absentOr {w : Nat} (lo hi : Nat) (x : Option (BitVec w)) : Bool :=
  match x with
  | none => true
  | some v => (inRange lo hi v).isSome

/-- The check of a STAGE_GLOBALS: at least one field, each in its range (R139). -/
def globalsOk (f : GlobalsFields) : Bool :=
  (f.station.isSome || f.limit0.isSome || f.limit1.isSome || f.limit2.isSome || f.limit3.isSome ||
    f.lease.isSome || f.enables.isSome) &&
  absentOr 0 4095 f.station && absentOr 0 256 f.limit0 && absentOr 0 256 f.limit1 &&
  absentOr 0 256 f.limit2 && absentOr 0 256 f.limit3 && absentOr 1 255 f.lease

/-! ### Requests (Table 12-3) -/

/-- A request, its argument bytes as they stand in the payload. -/
inductive Request where
  | identify | openSession | closeSession
  | readEntry (slot : Byte)
  | readStreamCounters (slot clear : Byte)
  | readPortCounters (clear page : Byte)
  | readFaults (maximum : Byte)
  | stageEntry (slot action cfgPresent : Byte) (rec : EntryRecord)
  | stageGlobals (rec : GlobalsRecord)
  | readStaging (first : Byte)
  | discardStaging | commit | saveImage | sealImage
  | resetPart (kind : Byte)
  | unknown (code : Byte)
  deriving DecidableEq, Repr

/-- Request codes (Table 12-2). -/
def requestCode : Request → Byte
  | .identify => 1#8
  | .openSession => 2#8
  | .closeSession => 3#8
  | .readEntry _ => 4#8
  | .readStreamCounters _ _ => 5#8
  | .readPortCounters _ _ => 6#8
  | .readFaults _ => 7#8
  | .stageEntry _ _ _ _ => 8#8
  | .stageGlobals _ => 9#8
  | .readStaging _ => 10#8
  | .discardStaging => 11#8
  | .commit => 12#8
  | .saveImage => 13#8
  | .sealImage => 14#8
  | .resetPart _ => 15#8
  | .unknown c => c

/-- The argument bytes from payload byte 3 on (Table 12-3). -/
def requestArgs : Request → List Byte
  | .readEntry slot => [slot]
  | .readStreamCounters slot clear => [slot, clear]
  | .readPortCounters clear page => [clear, page]
  | .readFaults n => [n]
  | .stageEntry slot action present rec => [slot, action, present] ++ entryRecordBytes rec
  | .stageGlobals rec => globalsRecordBytes rec
  | .readStaging first => [first]
  | .resetPart kind => [kind]
  | _ => []

/-- The payload of a request: manager id, code, arguments (R177). -/
def requestPayload (m : Word16) (r : Request) : List Byte := be16 m ++ [requestCode r] ++ requestArgs r

/-- The request a payload holds (R177, Table 12-3). -/
def requestOfPayload (l : List Byte) : Request :=
  let c := byteAt l 2
  let arg := fun i => byteAt l (3 + i)
  if c = 1#8 then .identify
  else if c = 2#8 then .openSession
  else if c = 3#8 then .closeSession
  else if c = 4#8 then .readEntry (arg 0)
  else if c = 5#8 then .readStreamCounters (arg 0) (arg 1)
  else if c = 6#8 then .readPortCounters (arg 0) (arg 1)
  else if c = 7#8 then .readFaults (arg 0)
  else if c = 8#8 then .stageEntry (arg 0) (arg 1) (arg 2) (entryRecordAt l 6)
  else if c = 9#8 then .stageGlobals (globalsRecordAt l 3)
  else if c = 10#8 then .readStaging (arg 0)
  else if c = 11#8 then .discardStaging
  else if c = 12#8 then .commit
  else if c = 13#8 then .saveImage
  else if c = 14#8 then .sealImage
  else if c = 15#8 then .resetPart (arg 0)
  else .unknown c

/-- The manager id a request payload carries (R177). -/
def managerOfPayload (l : List Byte) : Word16 := word16At l 0

end Sys2Proof.Machine
end

