-- ==== Sys2Proof/Machine/Access.lean ====
section
/-! DEFINITION. Reading and replacing the parts of the state: ports, slots, streams, queues, banks. Every
other definition goes through these. -/

namespace Sys2Proof.Machine

/-- The value for a field port. -/
def PerField.get {α : Type} (x : PerField α) : FPort → α
  | .f0 => x.f0
  | .f1 => x.f1

/-- The values with the one for a field port replaced. -/
def PerField.set {α : Type} (x : PerField α) (p : FPort) (v : α) : PerField α :=
  match p with
  | .f0 => { x with f0 := v }
  | .f1 => { x with f1 := v }

/-- The value for a port. -/
def PerPort.get {α : Type} (x : PerPort α) : Port → α
  | .f0 => x.f0
  | .f1 => x.f1
  | .l => x.l

/-- The values with the one for a port replaced. -/
def PerPort.set {α : Type} (x : PerPort α) (p : Port) (v : α) : PerPort α :=
  match p with
  | .f0 => { x with f0 := v }
  | .f1 => { x with f1 := v }
  | .l => { x with l := v }

/-- The value for a bank. -/
def PerBank.get {α : Type} (x : PerBank α) : BankId → α
  | .a => x.a
  | .b => x.b

/-- The values with the one for a bank replaced. -/
def PerBank.set {α : Type} (x : PerBank α) (bk : BankId) (v : α) : PerBank α :=
  match bk with
  | .a => { x with a := v }
  | .b => { x with b := v }

/-- The 64 slot numbers, ascending. -/
def allSlots : List (Fin 64) := (List.range 64).map (Fin.ofNat 64)

/-- The 8 repair slot numbers, ascending. -/
def allRepair : List (Fin 8) := (List.range 8).map (Fin.ofNat 8)

/-- The four classes, highest priority first. -/
def allClasses : List (Fin 4) := [0, 1, 2, 3]

/-- A port of the part. -/
def State.port (s : State) (p : Port) : PortState := s.ports.get p

/-- The state with a port replaced. -/
def State.setPort (s : State) (p : Port) (x : PortState) : State := { s with ports := s.ports.set p x }

/-- The link of a port is UP (R87). -/
def Link.isUp : Link → Bool
  | .up _ => true
  | _ => false

/-- The link of a port is UP. -/
def State.linkUp (s : State) (p : Port) : Bool := (s.port p).link.isUp

/-- The state with the link of a port replaced. -/
def State.setLink (s : State) (p : Port) (x : Link) : State := s.setPort p { s.port p with link := x }

/-- The state with the reception of a port replaced. -/
def State.setReception (s : State) (p : Port) (x : Option Reception) : State :=
  s.setPort p { s.port p with reception := x }

/-- The state with the transmission of a port replaced. -/
def State.setTx (s : State) (p : Port) (x : Option Queued) : State := s.setPort p { s.port p with tx := x }

/-- The state with the last transmission of a port closed as `e`, and its transmitter idle. -/
def State.closeTx (s : State) (p : Port) (e : TxEnd) : State :=
  s.setPort p { s.port p with tx := none, lastEnd := some e }

/-- The state with the signal of a port present or absent. -/
def State.setSignal (s : State) (p : Port) (x : Bool) : State := s.setPort p { s.port p with signal := x }

/-- The stream of a slot, none when the slot is FREE. -/
def State.stream (s : State) (k : Fin 64) : Option Stream := s.slots[k]

/-- The state with a slot replaced. -/
def State.setSlot (s : State) (k : Fin 64) (x : Option Stream) : State :=
  { s with slots := s.slots.set k.val x k.isLt }

/-- The state with the stream of a slot changed, when the slot is not FREE. -/
def State.mapStream (s : State) (k : Fin 64) (f : Stream → Stream) : State := s.setSlot k ((s.stream k).map f)

/-- The state of a slot (R1). -/
def slotStateOf : Option Stream → SlotState
  | none => .free
  | some st => if st.suspended then .suspended else .active

/-- The stream of a slot, when the slot is ACTIVE. -/
def State.activeStream (s : State) (k : Fin 64) : Option Stream :=
  match s.stream k with
  | some st => if st.suspended then none else some st
  | none => none

/-- Every slot's stream changed. -/
def State.mapAllStreams (s : State) (f : Stream → Stream) : State :=
  { s with slots := s.slots.map (Option.map f) }

/-- The held copy of a repair slot. -/
def State.held (s : State) (r : Fin 8) : Option Held := s.repair[r]

/-- The state with a repair slot replaced. -/
def State.setHeld (s : State) (r : Fin 8) (x : Option Held) : State :=
  { s with repair := s.repair.set r.val x r.isLt }

/-- The frames an egress queue lists, oldest first (R105). -/
def State.queue (s : State) : QueueId → List Queued
  | .lane => s.lane
  | .cls c => s.classes[c]
  | .command p => s.command.get p

/-- The state with an egress queue replaced. -/
def State.setQueue (s : State) (q : QueueId) (x : List Queued) : State :=
  match q with
  | .lane => { s with lane := x }
  | .cls c => { s with classes := s.classes.set c.val x c.isLt }
  | .command p => { s with command := s.command.set p x }

/-- The state with the agent replaced. -/
def State.setAgent (s : State) (a : Agent) : State := { s with agent := a }

/-- A path record of a stream. -/
def Stream.path (st : Stream) (p : FPort) : Path := st.paths.get p

/-- A path record is UP (R75). -/
def Path.isUp : Path → Bool
  | .up _ => true
  | _ => false

/-- A path record is LOST (R75). -/
def Path.isLost : Path → Bool
  | .lost _ => true
  | _ => false

end Sys2Proof.Machine
end

