-- ==== Sys2Proof/Machine/Flags.lean ====
section
/-! DEFINITION. What the part reports: counters (R159), fault records (R155 to R157) and notices (R161). -/

namespace Sys2Proof.Machine

/-! ### Counters -/

/-- The place of a per-stream counter in report order (Table 10-2), from 0. -/
def streamCtrIdx : StreamCtr → Fin 21
  | .forwarded => 0
  | .good .f0 => 1
  | .good .f1 => 2
  | .damaged .f0 => 3
  | .damaged .f1 => 4
  | .duplicate => 5
  | .lateTwin => 6
  | .stale => 7
  | .leap => 8
  | .resync => 9
  | .replaced => 10
  | .merged => 11
  | .trimmed => 12
  | .marked => 13
  | .damageDropped => 14
  | .discarded => 15
  | .policed => 16
  | .classFull => 17
  | .lineDown => 18
  | .formatMismatch => 19
  | .suspendedDrop => 20

/-- The place of a per-port counter in report order (Table 10-3), from 0. -/
def portCtrIdx : PortCtr → Fin 7
  | .framesReceived => 0
  | .headerError => 1
  | .malformed => 2
  | .aborted => 3
  | .poolEmpty => 4
  | .txAborted => 5
  | .framesSent => 6

/-- The place of a global counter in report order (Table 10-4), from 0. -/
def globalCtrIdx : GlobalCtr → Fin 21
  | .unknownStream => 0
  | .fieldControl => 1
  | .lineData => 2
  | .repairFull => 3
  | .requestOverflow => 4
  | .responseDropped => 5
  | .laneFull => 6
  | .flushed .lane => 7
  | .flushed (.cls 0) => 8
  | .flushed (.cls 1) => 9
  | .flushed (.cls 2) => 10
  | .flushed (.cls 3) => 11
  | .flushed (.command .f0) => 12
  | .flushed (.command .f1) => 13
  | .classFull 0 => 14
  | .classFull 1 => 15
  | .classFull 2 => 16
  | .classFull 3 => 17
  | .fieldQueueFull .f0 => 18
  | .fieldQueueFull .f1 => 19
  | .noticesLost => 20

/-- A set of counters with one of them incremented, staying at 4294967295 (R159). -/
def bumpAt {n : Nat} (v : Vector Word32 n) (i : Fin n) : Vector Word32 n := v.set i.val (satInc 32 v[i]) i.isLt

/-- A per-stream counter of a stream. -/
def Stream.counter (st : Stream) (c : StreamCtr) : Word32 := st.counters[streamCtrIdx c]

/-- The stream with one counter incremented. -/
def Stream.bump (c : StreamCtr) (st : Stream) : Stream := { st with counters := bumpAt st.counters (streamCtrIdx c) }

/-- A per-stream counter; those of a FREE slot read 0 (R8, R159). -/
def State.streamCounter (s : State) (k : Fin 64) (c : StreamCtr) : Word32 :=
  match s.stream k with
  | some st => st.counter c
  | none => 0#32

/-- Increment a per-stream counter. -/
def State.bumpStream (s : State) (k : Fin 64) (c : StreamCtr) : State := s.mapStream k (Stream.bump c)

/-- A per-port counter. -/
def State.portCounter (s : State) (p : Port) (c : PortCtr) : Word32 := (s.port p).counters[portCtrIdx c]

/-- Increment a per-port counter. -/
def State.bumpPort (s : State) (p : Port) (c : PortCtr) : State :=
  s.setPort p { s.port p with counters := bumpAt (s.port p).counters (portCtrIdx c) }

/-- A global counter. -/
def State.globalCounter (s : State) (c : GlobalCtr) : Word32 := s.globalCtrs[globalCtrIdx c]

/-- Increment a global counter. -/
def State.bumpGlobal (s : State) (c : GlobalCtr) : State :=
  { s with globalCtrs := bumpAt s.globalCtrs (globalCtrIdx c) }

/-! ### Notices -/

/-- The notice enable of a kind; COMMIT_DONE, SAVE_DONE and SEAL_DONE have none (Tables 9-1 and 10-5). -/
def noticeEnableBit : NoticeBody → Option Nat
  | .pathLost _ _ _ _ _ => some 0
  | .pathRestored _ _ _ _ _ => some 1
  | .portDown _ _ _ => some 2
  | .portUp _ _ => some 3
  | .streamResync _ _ _ _ _ => some 4
  | .sessionExpired _ => some 5
  | .faultsPending => some 6
  | .commitDone _ _ _ _ => none
  | .saveDone _ _ _ _ _ => none
  | .sealDone _ _ _ _ _ => none

/-- The kind is enabled in the globals in force, or is always sent (R161). -/
def noticeEnabled (g : Globals) (b : NoticeBody) : Bool :=
  match noticeEnableBit b with
  | some i => g.enables.getLsbD i
  | none => true

/-- The notice queue's places (R161). -/
def noticeLimit : Nat := 8

/-- A notice is raised: not queued when disabled, queued when there is a place, else counted lost (R161). -/
def State.raiseNotice (s : State) (b : NoticeBody) : State :=
  if noticeEnabled s.globals b then
    if s.notices.length < noticeLimit then { s with notices := s.notices ++ [⟨b, s.count⟩] }
    else ({ s with noticesLost := satInc 16 s.noticesLost }).bumpGlobal .noticesLost
  else s

/-! ### Faults -/

/-- The fault queue's places (R155). -/
def faultLimit : Nat := 16

/-- What a fault says, before the log takes it (Table 10-1). -/
structure FaultInfo where
  kind    : FaultKind
  port    : Option Port := none
  fieldId : Option Id12 := none
  seq     : Option Word16 := none
  part    : Option Nat := none
  deriving DecidableEq, Repr

/-- The newest record takes the fault: same kind, port and field stream id (R156). -/
def mergesWith (r : FaultRecord) (f : FaultInfo) : Bool :=
  (r.kind == f.kind) && (r.port == f.port) && (r.fieldId == f.fieldId)

/-- The newest record after a merge (R156). -/
def mergedRecord (r : FaultRecord) (time : Word32) : FaultRecord :=
  { r with repeats := satInc 8 r.repeats, lastTime := time }

/-- The record an append adds (R156). -/
def freshRecord (f : FaultInfo) (time : Word32) : FaultRecord :=
  { kind := f.kind, port := f.port, fieldId := f.fieldId, seq := f.seq, part := f.part,
    firstTime := time, lastTime := time, repeats := 1#8 }

/-- The newest record merges with the fault. -/
def mergesNewest (q : List FaultRecord) (f : FaultInfo) : Bool :=
  match q.getLast? with
  | some r => mergesWith r f
  | none => false

/-- A fault raised at a time: merge, append or overflow; an append that brings the queue from 11 to 12
records raises FAULTS_PENDING (R156, R157). -/
def State.raiseFaultAt (s : State) (f : FaultInfo) (time : Word32) : State :=
  if mergesNewest s.faults f then
    { s with faults := s.faults.dropLast ++ (s.faults.getLast?.toList.map (fun r => mergedRecord r time)) }
  else if s.faults.length < faultLimit then
    let s' := { s with faults := s.faults ++ [freshRecord f time] }
    if s.faults.length = 11 then s'.raiseNotice .faultsPending else s'
  else { s with overflow := satInc 16 s.overflow }

/-- A fault raised within a happening carries the millisecond count at the happening (R154, R156). -/
def State.raiseFault (s : State) (f : FaultInfo) : State := s.raiseFaultAt f s.count

end Sys2Proof.Machine
end

