-- ==== Sys2Proof/Machine/Ops.lean ====
section
/-! DEFINITION. Shared operations: the buffer pool (R101 to R104), the egress queues (R105 to R111), the line
arbiter and the transmitters (R96, R97, R112, R114), and the notice feed (R109, R162, R163). -/

namespace Sys2Proof.Machine

/-! ### The pool -/

/-- The cells a frame of `n` bytes occupies: ceil(n/64). -/
def cellsFor (n : Nat) : Nat := ceilDiv n 64

/-- The cells field requests may not take (R102). -/
def reserveCells : Nat := 4

/-- Cells granted whole or not at all: `n` cells leave the free list when `n` and `keep` more are free. -/
def State.grant (s : State) (n keep : Nat) : Option (List CellId × State) :=
  if n + keep ≤ s.free.length then some (s.free.take n, { s with free := s.free.drop n }) else none

/-- A receiver asks for one cell: a field port leaves the reserve, L may take it (R102, Table 7-1). -/
def State.grantReceiver (s : State) (p : Port) : Option (List CellId × State) :=
  match p with
  | .f0 => s.grant 1 reserveCells
  | .f1 => s.grant 1 reserveCells
  | .l => s.grant 1 0

/-- Cells return to the free list (R103). -/
def State.returnCells (s : State) (cells : List CellId) : State := { s with free := s.free ++ cells }

/-- The one holder of a frame lets it go: its cells return (R103). -/
def State.release (s : State) (f : Frame) : State := s.returnCells f.cells

/-- A field port holds the frame, in its command queue or in transmission (R101; log 18). -/
def State.portHolds (s : State) (p : FPort) (f : Frame) : Bool :=
  (s.command.get p).any (fun x => x.frame.cells == f.cells) ||
    (match (s.port (portOf p)).tx with
     | some x => x.frame.cells == f.cells
     | none => false)

/-- The reference count of a frame that L sent to the field: how many field ports hold it (R95, R101). -/
def State.refCount (s : State) (f : Frame) : Nat :=
  (if s.portHolds .f0 f then 1 else 0) + (if s.portHolds .f1 f then 1 else 0)

/-- Field port `p`, which has let the frame go, releases it: the cells return when the other port does not
hold it (R103, R110). -/
def State.releaseShared (s : State) (p : FPort) (f : Frame) : State :=
  if s.portHolds (otherPort p) f then s else s.release f

/-! ### The egress queues -/

/-- A queue's count of cells (R105). -/
def cellCount (q : List Queued) : Nat := (q.map (fun x => x.frame.cells.length)).sum

/-- The limit of a queue in cells (Table 7-3, R106). -/
def State.queueLimit (s : State) : QueueId → Nat
  | .lane => 16
  | .cls c => s.globals.limits[c].toNat
  | .command _ => 32

/-- A queue has room for `n` more cells (R105). -/
def State.roomFor (s : State) (q : QueueId) (n : Nat) : Bool := decide (cellCount (s.queue q) + n ≤ s.queueLimit q)

/-- A frame joins the tail of a queue (R105). -/
def State.enqueue (s : State) (q : QueueId) (x : Queued) : State := s.setQueue q (s.queue q ++ [x])

/-- What a queue's release of one of its frames does to the pool (R103, R111). -/
def State.releaseFrom (s : State) (q : QueueId) (f : Frame) : State :=
  match q with
  | .command p => s.releaseShared p f
  | .lane => s.release f
  | .cls _ => s.release f

/-- The lost count kept with a frame, when it is a notice frame (R162). -/
def keptLost : Origin → Word16
  | .notice lost => lost
  | _ => 0#16

/-- A lane frame is reported not sent: the lost count kept with a notice frame is added back (R114, R163). -/
def State.reportNotSent (s : State) (o : Origin) : State :=
  { s with noticesLost := satAdd 16 s.noticesLost (keptLost o) }

/-- One frame of a queue is flushed: released, counted, reported not sent (R111, R163). -/
def State.flushOne (q : QueueId) (s : State) (x : Queued) : State :=
  ((s.releaseFrom q x.frame).bumpGlobal (.flushed q)).reportNotSent x.origin

/-- A queue is flushed, in the order listed (R111). -/
def State.flush (s : State) (q : QueueId) : State := (s.queue q).foldl (State.flushOne q) (s.setQueue q [])

/-! ### Transmission -/

/-- The first queue of a list that holds a frame. -/
def State.firstQueue (s : State) : List QueueId → Option QueueId
  | [] => none
  | q :: rest => if (s.queue q).isEmpty then s.firstQueue rest else some q

/-- The queue a transmitter is served from: the arbiter's strict priority on L, the command queue on a field
port (R96, R110, R112). -/
def State.txSource (s : State) : Port → Option QueueId
  | .f0 => s.firstQueue [.command .f0]
  | .f1 => s.firstQueue [.command .f1]
  | .l => s.firstQueue [.lane, .cls 0, .cls 1, .cls 2, .cls 3]

/-- The head of a queue leaves it and is in transmission (R96). -/
def State.sendHead (s : State) (p : Port) (q : QueueId) : State :=
  match s.queue q with
  | [] => s
  | x :: rest => (s.setQueue q rest).setTx p (some x)

/-- An idle transmitter on an UP link takes the frame its source offers (R96, R112). -/
def State.startTx (s : State) (p : Port) : State :=
  if (s.port p).tx.isNone && s.linkUp p then
    match s.txSource p with
    | some q => s.sendHead p q
    | none => s
  else s

/-- What a transmitter lets go when a transmission ends or is cut (R96, R97, R103). -/
def State.releaseTx (s : State) (p : Port) (f : Frame) : State :=
  match p with
  | .f0 => s.releaseShared .f0 f
  | .f1 => s.releaseShared .f1 f
  | .l => s.release f

/-- What a transmitter sends (R86). -/
inductive TxOutput where
  | silent
  | alignmentWords (mark : Bool)
  | idleFill
  | frame (bytes : List Byte)
  deriving DecidableEq, Repr

/-- The output of a port's transmitter (R86): silent until the start-up load has ended, alignment words in DOWN
and ALIGNING, a frame or idle fill in UP. -/
def State.txOutput (s : State) (p : Port) : TxOutput :=
  if s.phase = .running then
    match (s.port p).link with
    | .down => .alignmentWords false
    | .aligning _ reached _ => .alignmentWords reached
    | .up _ =>
      match (s.port p).tx with
      | some x => .frame x.frame.bytes
      | none => .idleFill
  else .silent

/-! ### The notice feed -/

/-- Notice kind codes (Table 12-2). -/
def noticeCode : NoticeBody → Byte
  | .pathLost _ _ _ _ _ => 1#8
  | .pathRestored _ _ _ _ _ => 2#8
  | .portDown _ _ _ => 3#8
  | .portUp _ _ => 4#8
  | .streamResync _ _ _ _ _ => 5#8
  | .sessionExpired _ => 6#8
  | .faultsPending => 7#8
  | .commitDone _ _ _ _ => 8#8
  | .saveDone _ _ _ _ _ => 9#8
  | .sealDone _ _ _ _ _ => 10#8

/-- A 12-bit id as two bytes. -/
def idBytes (x : Id12) : List Byte := be16 (x.setWidth 16)

/-- The contents of SAVE_DONE and SEAL_DONE (Table 12-8). -/
def imageDoneBytes (ok : Bool) (bk : BankId) (n : Word32) (i : ImageState) (m : Word16) : List Byte :=
  [if ok then 0#8 else 1#8, bankCode bk] ++ be32 n ++ [imageCode i] ++ be16 m

/-- The contents of a notice, from payload byte 7 (Table 12-8). -/
def noticeContents (held : Nat) (overflow : Word16) : NoticeBody → List Byte
  | .pathLost k f p t at_ => [byteOf k.val] ++ idBytes f ++ [portCode (portOf p), t] ++ be32 at_
  | .pathRestored k f p at_ time => [byteOf k.val] ++ idBytes f ++ [portCode (portOf p)] ++ be32 at_ ++ be32 time
  | .portDown p time n => [portCode (portOf p)] ++ be32 time ++ [byteOf n]
  | .portUp p time => [portCode (portOf p)] ++ be32 time
  | .streamResync k f p old s => [byteOf k.val] ++ idBytes f ++ [portCode (portOf p)] ++ be16 old ++ be16 s
  | .sessionExpired m => be16 m
  | .faultsPending => [byteOf held] ++ be16 overflow
  | .commitDone .applied g n m => [0#8] ++ be16 g ++ [byteOf n] ++ be16 m ++ [0#8, 0#8]
  | .commitDone (.rejected i r) g n m => [1#8] ++ be16 g ++ [byteOf n] ++ be16 m ++ [byteOf i, reasonCode r]
  | .saveDone ok bk n i m => imageDoneBytes ok bk n i m
  | .sealDone ok bk n i m => imageDoneBytes ok bk n i m

/-- The payload of a notice frame built now (R162, R178). -/
def State.noticePayload (s : State) (n : NoticeRecord) : List Byte :=
  [noticeCode n.body] ++ be32 n.time ++ be16 s.noticesLost ++ noticeContents s.faults.length s.overflow n.body

/-- The notice frame built now, under the next serial (R162). -/
def State.noticeFrame (s : State) (n : NoticeRecord) : List Byte :=
  mgmtFrame .mgmtNotice s.globals.station (s.serial + 1) (s.noticePayload n)

/-- Every notice frame is 42 bytes in 1 cell (R178). -/
def noticeCells : Nat := 1

/-- The oldest record becomes a frame in the cells granted, at the tail of the lane (R162). -/
def State.buildNotice (s : State) (n : NoticeRecord) (rest : List NoticeRecord) (cells : List CellId) : State :=
  { s with
    serial := s.serial + 1
    noticesLost := 0#16
    notices := rest
    lane := s.lane ++ [⟨⟨s.noticeFrame n, cells⟩, .notice s.noticesLost⟩] }

/-- Notice records are offered, oldest first, while L is UP, the lane has room and the pool grants the cell
(R109, R162). The list is the notice queue. -/
def offerNotices : List NoticeRecord → State → State
  | [], s => s
  | n :: rest, s =>
    if s.linkUp .l && s.roomFor .lane noticeCells then
      match s.grant noticeCells 0 with
      | some (cells, s') => offerNotices rest (s'.buildNotice n rest cells)
      | none => s
    else s

/-- The log feeds its notice queue into the lane (R109). -/
def State.feedNotices (s : State) : State := offerNotices s.notices s

/-! ### What follows within the same happening -/

/-- What the part does at once after a happening, within it: notices are offered (R109), the line arbiter grants
(R112), and idle field transmitters start (R96). Offers are taken before the grant (log 5). -/
def State.settle (s : State) : State :=
  if s.phase = .running then ((((s.feedNotices.startTx .l).feedNotices).startTx .f0).startTx .f1) else s

/-- A happening of the running part, and what follows at once; it cannot fall in another phase (log 4). -/
def whenRunning (f : State → State) (s : State) : State :=
  if s.phase = .running then (f s).settle else s

end Sys2Proof.Machine
end

