-- ==== Sys2Proof/Machine/History.lean ====
section
/-! DEFINITION. The history unit (Chapter 2): classification, recording, late-twin marks and the resync
candidate. -/

namespace Sys2Proof.Machine

/-- The classes of a sequence (R25). -/
inductive SeqClass where
  | new | duplicate | stale | leap
  deriving DecidableEq, Repr

/-- The member of an accepted set with a sequence. -/
def History.member? (h : History) (s : Word16) : Option Member := h.members.find? (fun m => m.seq == s)

/-- A sequence is in the accepted set. -/
def History.accepts (h : History) (s : Word16) : Bool := h.members.any (fun m => m.seq == s)

/-- A stream's accepted set holds a sequence; that of an empty history holds none (R21). -/
def accepted (h : Option History) (s : Word16) : Bool :=
  match h with
  | none => false
  | some h => h.accepts s

/-- Table 2-1: the class of `s` against a history under a jump limit (R25). -/
def classify (h : Option History) (jump : Nat) (s : Word16) : SeqClass :=
  match h with
  | none => .new
  | some h =>
    let d := distance h.top s
    if d = 0 then .duplicate
    else if d ≤ 32767 then (if d ≤ jump then .new else .leap)
    else if 65536 - d ≤ 31 then (if h.accepts s then .duplicate else .new)
    else .stale

/-- A member put in its place in a set ordered by the distance behind `top`. -/
def insertMember (top : Word16) (m : Member) : List Member → List Member
  | [] => [m]
  | x :: rest =>
    if distance m.seq top ≤ distance x.seq top then m :: x :: rest else x :: insertMember top m rest

/-- Table 2-3: the history after `s` is recorded with a mark, and none where the recording changes nothing
(R28). -/
def recorded (h : Option History) (s : Word16) (mark : Option FPort) : Option History :=
  match h with
  | none => some ⟨s, [⟨s, mark⟩]⟩
  | some h =>
    let d := distance h.top s
    if d = 0 then none
    else if d ≤ 32767 then some ⟨s, ⟨s, mark⟩ :: h.members.filter (fun m => decide (distance m.seq s ≤ 31))⟩
    else if 65536 - d ≤ 31 then
      (if h.accepts s then none else some ⟨h.top, insertMember h.top ⟨s, mark⟩ h.members⟩)
    else none

/-- The stream after its history has recorded `s`; a recording that changes the history clears the resync
candidate (R28, R36), also when a copy that would have completed the run comes together with it and is taken after it: that copy
then starts a run and forces no resync (log 26). -/
def Stream.record (seq : Word16) (mark : Option FPort) (st : Stream) : Stream :=
  match recorded st.history seq mark with
  | some h => { st with history := some h, candidate := none }
  | none => st

/-- The stream with its history emptied: top, members, marks and candidate go (R23). -/
def Stream.emptyHistory (st : Stream) : Stream := { st with history := none, candidate := none }

/-- The member that matches `s` carries a late-twin mark naming `p` (R27). -/
def lateTwin (h : Option History) (s : Word16) (p : FPort) : Bool :=
  match h with
  | none => false
  | some h =>
    match h.member? s with
    | some m => m.mark == some p
    | none => false

/-- The history with the mark on `s` removed (R27). -/
def clearMark (s : Word16) (h : History) : History :=
  { h with members := h.members.map (fun m => if m.seq = s then ⟨m.seq, none⟩ else m) }

/-- A DUPLICATE copy from `p` is counted once, as a late twin or as a duplicate (R27). -/
def Stream.countDuplicate (seq : Word16) (p : FPort) (st : Stream) : Stream :=
  if lateTwin st.history seq p then
    Stream.bump .lateTwin { st with history := st.history.map (clearMark seq) }
  else Stream.bump .duplicate st

/-- `s` is one of the sequences the candidate's run has counted: next − run to next − 1 (R31). -/
def counted (c : Candidate) (s : Word16) : Bool :=
  decide (1 ≤ distance s c.next) && decide (distance s c.next ≤ c.run)

/-- Table 2-5: the candidate after an all-good LEAP copy of `s` from `p`, and whether the copy stepped it, by
its first or its last row, to the resync run or beyond (R32, R38; log 24). -/
def candidateStep (c : Option Candidate) (resyncRun : Nat) (p : FPort) (s : Word16) : Candidate × Bool :=
  match c with
  | none => (⟨p, s + 1, 1⟩, decide (resyncRun ≤ 1))
  | some c =>
    if c.port = p ∧ c.next = s then (⟨p, s + 1, c.run + 1⟩, decide (resyncRun ≤ c.run + 1))
    else if c.port ≠ p ∧ counted c s = true then (c, false)
    else (⟨p, s + 1, 1⟩, decide (resyncRun ≤ 1))

end Sys2Proof.Machine
end

