-- ==== Sys2Proof/Machine/Paths.lean ====
section
/-! DEFINITION. The path supervisor (Chapter 5): evidence, path timers, field link changes. -/

namespace Sys2Proof.Machine

/-- The stream with a path record replaced. -/
def Stream.setPath (p : FPort) (x : Path) (st : Stream) : Stream := { st with paths := st.paths.set p x }

/-- Both paths FRESH, timers stopped, lost-at times cleared (R84). -/
def freshPaths : PerField Path := ⟨.fresh, .fresh⟩

/-- How many of a stream's two paths are UP (R71). -/
def Stream.pathsUp (st : Stream) : Nat :=
  (if (st.path .f0).isUp then 1 else 0) + (if (st.path .f1).isUp then 1 else 0)

/-- A path frozen by a SUSPEND: as it stands, its timer stopped (R83). -/
def frozenPath : Path → Path
  | .up _ => .up none
  | x => x

/-- The notice evidence raises, if the path was LOST (R77, R85). -/
def evidenceNotice (k : Fin 64) (st : Stream) (p : FPort) (now : Word32) : Option NoticeBody :=
  match st.path p with
  | .lost at_ => some (.pathRestored k st.cfg.fieldId p at_ now)
  | _ => none

/-- Evidence on the path of slot `k` on port `p` (R77, Table 5-1): UP, with the timer started afresh. -/
def State.evidence (s : State) (k : Fin 64) (p : FPort) : State :=
  match s.stream k with
  | none => s
  | some st =>
    let s' := s.mapStream k (Stream.setPath p (.up (some st.cfg.pathTimeout)))
    match evidenceNotice k st p s.count with
    | some n => s'.raiseNotice n
    | none => s'

/-- The path on `p` of an ACTIVE stream after a link loss of `p`; SUSPENDED streams are frozen (R80). -/
def Stream.pathOnLinkLoss (p : FPort) (now : Word32) (st : Stream) : Stream :=
  if st.suspended || (st.path p).isLost then st else st.setPath p (.lost now)

/-- The path on `p` of an ACTIVE stream after the link of `p` comes UP (R81). -/
def Stream.pathOnLinkUp (p : FPort) (st : Stream) : Stream :=
  if st.suspended then st else st.setPath p .fresh

/-- The slot is ACTIVE and its path on `p` is not LOST: a link loss of `p` changes it (R80). -/
def losesPath (p : FPort) : Option Stream → Bool
  | some st => !st.suspended && !(st.path p).isLost
  | none => false

/-- How many ACTIVE slots a link loss of `p` changes to LOST (R80). -/
def State.pathsToLose (s : State) (p : FPort) : Nat := (allSlots.filter (fun k => losesPath p (s.stream k))).length

/-- The path effects of a link loss of `p`: paths LOST, one PORT_DOWN notice (R80). -/
def State.pathsLinkLoss (s : State) (p : FPort) : State :=
  (s.mapAllStreams (Stream.pathOnLinkLoss p s.count)).raiseNotice (.portDown p s.count (s.pathsToLose p))

/-- The path effects of the link of `p` coming UP: paths FRESH, one PORT_UP notice (R81). -/
def State.pathsLinkUp (s : State) (p : FPort) : State :=
  (s.mapAllStreams (Stream.pathOnLinkUp p)).raiseNotice (.portUp p s.count)

end Sys2Proof.Machine
end

