-- ==== Sys2Proof/Machine/Resolution.lean ====
section
/-! DEFINITION. The resolution of a frame (Chapter 4) with the damage policies of Chapter 3 (R57 to R60). -/

namespace Sys2Proof.Machine

/-- A frame at its resolution (R61): stream slot, sequence, via port, good-map, partition count, MERGED flag,
and the late-twin mark of an expiry resolution. -/
structure Subject where
  slot   : Fin 64
  seq    : Word16
  via    : FPort
  good   : List Bool
  merged : Bool
  mark   : Option FPort
  frame  : Frame
  deriving DecidableEq, Repr

/-- The lowest-numbered bad partition. -/
def lowestBad (good : List Bool) : Option Nat := good.findIdx? (fun g => !g)

/-- What step 2 makes of a frame (Table 3-3). -/
inductive PolicyOutcome where
  | whole
  | dropped (part : Nat)
  | trimmed (count : Nat)
  | marked
  deriving DecidableEq, Repr

/-- The damage policy on a good-map (R57 to R60, Table 3-3). -/
def policyOutcome (pol : DamagePolicy) (good : List Bool) : PolicyOutcome :=
  match lowestBad good with
  | none => .whole
  | some j =>
    match pol with
    | .whole => .dropped j
    | .trim => if j = 0 then .dropped 0 else .trimmed j
    | .mark => .marked

/-- The frame cut to its first `j` partitions: the new length's bytes and its first cells (R59). -/
def trimFrame (f : Frame) (size j : Nat) : Frame :=
  let n := frameLength size j
  ⟨f.bytes.take n, f.cells.take (cellsFor n)⟩

/-- The cells a trim returns (R59, R104). -/
def trimmedCells (f : Frame) (size j : Nat) : List CellId := f.cells.drop (cellsFor (frameLength size j))

/-- Header byte 1: DAMAGED, TRIMMED, MERGED, SOLO and the via port (Table 12-1). -/
def flagByte (damaged trimmed merged solo : Bool) (via : FPort) : Byte :=
  (if damaged then 1#8 else 0#8) ||| (if trimmed then 2#8 else 0#8) ||| (if merged then 4#8 else 0#8) |||
    (if solo then 8#8 else 0#8) ||| (if via = .f1 then 16#8 else 0#8)

/-- The header rewritten for the line (R70 to R72, R176): size code kept, kind DATA, bits 5 and 4 of byte 0 sent
0, new flags, via port, count, line stream id and stamp, sequence kept, check recomputed. -/
def rewriteHeader (f : List Byte) (flags : Byte) (count : Nat) (lineId : Id12) (stamp : Byte) : List Byte :=
  header ((byteAt f 0 &&& 0xC0#8) ||| kindCode .data) flags count lineId (frameSeq f) stamp ++ f.drop 8

/-- The low byte of the table generation (R13, R70). -/
def State.stamp (s : State) : Byte := s.generation.setWidth 8

/-- Step 4: whether the stream passes policing, and its credits after (R64). -/
def policed (st : Stream) : Bool × Byte :=
  if st.cfg.burst = 0#8 then (true, st.credits)
  else if st.credits = 0#8 then (false, st.credits)
  else (true, st.credits - 1)

/-- Step 6: the rewritten frame joins its class queue, or is dropped as CLASS_FULL (R73). -/
def State.enqueueClass (s : State) (k : Fin 64) (c : Fin 4) (f : Frame) : State :=
  if s.roomFor (.cls c) f.cells.length then (s.enqueue (.cls c) ⟨f, .data⟩).bumpStream k .forwarded
  else ((s.release f).bumpStream k .classFull).bumpGlobal (.classFull c)

/-- Steps 3 to 6 of a resolution (R63, R64, R70 to R73): `f` is the frame after step 2, `count` its partition
count, `trimmed` and `damaged` the flags step 2 gave. -/
def State.forward (s : State) (x : Subject) (f : Frame) (count : Nat) (trimmed damaged : Bool) : State :=
  match s.stream x.slot with
  | none => s.release f
  | some st =>
    if s.linkUp .l then
      let (pass, credits) := policed st
      if pass then
        let flags := flagByte damaged trimmed x.merged (decide (st.pathsUp < 2)) x.via
        let g : Frame := ⟨rewriteHeader f.bytes flags count st.cfg.lineId s.stamp, f.cells⟩
        (s.mapStream x.slot (fun st => { st with credits := credits })).enqueueClass x.slot st.cfg.cls g
      else (s.release f).bumpStream x.slot .policed
    else (s.release f).bumpStream x.slot .lineDown

/-- Steps 2 to 6 of a resolution, the sequence being recorded (R62, R57 to R60). -/
def State.settleFrame (s : State) (x : Subject) (cfg : StreamConfig) : State :=
  match policyOutcome cfg.policy x.good with
  | .whole => s.forward x x.frame x.good.length false false
  | .dropped j =>
    ((s.release x.frame).bumpStream x.slot .damageDropped).raiseFault
      { kind := .damageDropped, port := some (portOf x.via), fieldId := some cfg.fieldId, seq := some x.seq,
        part := some j }
  | .trimmed j =>
    ((s.returnCells (trimmedCells x.frame (sizeBytes cfg.size) j)).bumpStream x.slot .trimmed).forward x
      (trimFrame x.frame (sizeBytes cfg.size) j) j true false
  | .marked => (s.bumpStream x.slot .marked).forward x x.frame x.good.length false true

/-- A resolution, whole: step 1 records the sequence, then steps 2 to 6 (R61, Table 4-2). A frame whose slot is
FREE, which no run reaches, is let go (log 22). -/
def State.resolve (s : State) (x : Subject) : State :=
  match s.stream x.slot with
  | none => s.release x.frame
  | some st => (s.mapStream x.slot (Stream.record x.seq x.mark)).settleFrame x st.cfg

/-- The subject a held copy gives: via the held port, with the map it holds (R44, R51). -/
def heldSubject (h : Held) (mark : Option FPort) : Subject :=
  { slot := h.slot, seq := h.seq, via := h.port, good := h.good, merged := false, mark, frame := h.frame }

/-- A repair slot's copy is resolved alone and the slot freed; at a wait expiry with the late-twin mark that
names the other port (R51), else without a mark (R48, R53). -/
def State.resolveHeld (s : State) (r : Fin 8) (expiry : Bool) : State :=
  match s.held r with
  | none => s
  | some h => (s.setHeld r none).resolve (heldSubject h (if expiry then some (otherPort h.port) else none))

/-- A repair slot's copy is discarded: its cells return, DISCARDED counts once on its stream, the slot is freed
(R55, R56). -/
def State.discardHeld (s : State) (r : Fin 8) : State :=
  match s.held r with
  | none => s
  | some h => ((s.setHeld r none).release h.frame).bumpStream h.slot .discarded

/-- Every repair slot that holds a copy of stream slot `k` is discarded (R33, R55). -/
def State.discardStream (s : State) (k : Fin 64) : State :=
  allRepair.foldl (fun s r => if (s.held r).any (fun h => h.slot == k) then s.discardHeld r else s) s

/-- Every repair slot whose held port is `p` is resolved, in ascending order (R53, R74). -/
def State.forceResolve (s : State) (p : FPort) : State :=
  allRepair.foldl (fun s r => if (s.held r).any (fun h => h.port == p) then s.resolveHeld r false else s) s

end Sys2Proof.Machine
end

