-- ==== Sys2Proof/Machine/Image.lean ====
section
/-! DEFINITION. The retained image (Chapter 11, R179): the layout of a bank, its condition, the newest bank, the
image state, and what a load reads from a bank. -/

namespace Sys2Proof.Machine

/-- How many content bytes a bank holds (R179). -/
def contentSize : Nat := 1105

/-- The 17 bytes of a slot in a bank (Table 12-9): FREE slots are written 00h. -/
def slotImage : Option Stream → List Byte
  | none => List.replicate 17 0#8
  | some st =>
    [slotStateCode (if st.suspended then .suspended else .active)] ++
      ((entryRecordBytes (entryRecordOfConfig st.cfg)).drop 2).take 15 ++ [0#8]

/-- The content a SAVE_IMAGE writes: count, mark, station, globals, slots (R165, R170, Table 12-9). -/
def State.liveContent (s : State) (saveCount : Word32) (mark : Byte) : List Byte :=
  be32 saveCount ++ [mark] ++ idBytes s.globals.station ++ s.globals.limits.toList.flatMap be16 ++
    [s.globals.leaseTimeout, s.globals.enables.setWidth 8] ++ allSlots.flatMap (fun k => slotImage (s.stream k))

/-- Content and check word: the bytes of a bank (R166, R179). -/
def withCheckWord (content : List Byte) : List Byte := content ++ be32 (crc32 content)

/-- The content a SEAL_IMAGE writes: the source's as stored, with the mark set and the next count (R173). -/
def sealedContent (source : Memory) (saveCount : Word32) : List Byte :=
  be32 saveCount ++ [1#8] ++ (source.bytes.take contentSize).drop 5

/-- Conditions of a bank (R165). -/
inductive BankCondition where
  | erased | valid | bad
  deriving DecidableEq, Repr

/-- The check word agrees with the content as read (R166). -/
def checkAgrees (bytes : List Byte) : Bool := crc32 (bytes.take contentSize) == word32At bytes contentSize

/-- The condition of a bank: erased when all its bytes read FFh, else by its check word (R165, R179). -/
def Memory.condition (m : Memory) : BankCondition :=
  if m.bytes.all (fun b => b == erasedByte) then .erased
  else if checkAgrees m.bytes then .valid else .bad

/-- The save count of a bank. -/
def Memory.saveCount (m : Memory) : Word32 := word32At m.bytes 0

/-- The sealed mark of a bank: any value but 00h counts as sealed (R179). -/
def Memory.sealedMark (m : Memory) : Bool := m.read 4 != 0#8

/-- Bank X is newer than bank Y by their counts (R167). -/
def newerCount (x y : Word32) : Bool := decide (1 ≤ (x - y).toNat) && decide ((x - y).toNat ≤ 2147483647)

/-- The newest valid bank (R167). -/
def newestBank (b : PerBank Memory) : Option BankId :=
  match b.a.condition, b.b.condition with
  | .valid, .valid => if newerCount b.b.saveCount b.a.saveCount then some .b else some .a
  | .valid, .erased => some .a
  | .valid, .bad => some .a
  | .erased, .valid => some .b
  | .bad, .valid => some .b
  | .erased, .erased => none
  | .erased, .bad => none
  | .bad, .erased => none
  | .bad, .bad => none

/-- The other bank. -/
def otherBank : BankId → BankId
  | .a => .b
  | .b => .a

/-- Table 11-1: the image state two banks give (R167). -/
def imageStateOf (b : PerBank Memory) : ImageState :=
  match newestBank b with
  | some x => if (b.get x).sealedMark then .sealed else .valid
  | none => if b.a.condition = .erased ∧ b.b.condition = .erased then .blank else .corrupt

/-! ### What a load reads (R169; values that break R2 are free, log 16) -/

/-- An id as a bank holds it. -/
def imageId (w : Word16) : Id12 := (idOfWord w).getD (Config.unreadId w)

/-- The configuration a slot's 17 bytes hold. -/
def imageConfig (l : List Byte) : StreamConfig :=
  { fieldId := imageId (word16At l 1), lineId := imageId (word16At l 3),
    size := (partSizeOfByte (byteAt l 5)).getD (Config.unreadPartSize (byteAt l 5)),
    policy := (policyOfCode (byteAt l 6)).getD (Config.unreadPolicy (byteAt l 6)),
    twinWait := word16At l 7, jumpLimit := word16At l 9, resyncRun := byteAt l 11, pathTimeout := byteAt l 12,
    cls := (classOfByte (byteAt l 13)).getD (Config.unreadClass (byteAt l 13)),
    burst := byteAt l 14, interval := byteAt l 15 }

/-- The slot state a slot's bytes hold. -/
def imageSlotState (l : List Byte) : SlotState :=
  (slotStateOfCode (byteAt l 0)).getD (Config.unreadSlotState (byteAt l 0))

/-- A stream at its start: empty history, no candidate, FRESH paths, credits equal to burst, counters zero, timer
stopped (R18, R146). -/
def newStream (cfg : StreamConfig) (suspended locked : Bool) : Stream :=
  { suspended, locked, cfg, history := none, candidate := none, paths := freshPaths, credits := cfg.burst,
    intervalTimer := none, counters := Vector.replicate 21 0#32 }

/-- The slot a load installs from a slot's bytes; non-FREE slots are LOCKED from a sealed bank (R9, R169). -/
def loadSlot (locked : Bool) (l : List Byte) : Option Stream :=
  match imageSlotState l with
  | .free => none
  | .active => some (newStream (imageConfig l) false locked)
  | .suspended => some (newStream (imageConfig l) true locked)

/-- The bytes of slot `k` in a bank (Table 12-9). -/
def slotBytes (bytes : List Byte) (k : Fin 64) : List Byte := (bytes.drop (17 + 17 * k.val)).take 17

/-- The 64 slots a load installs from a bank. -/
def loadSlots (m : Memory) : Vector (Option Stream) 64 :=
  Vector.ofFn (fun k => loadSlot m.sealedMark (slotBytes m.bytes k))

/-- The station address and globals a load installs from a bank. -/
def loadGlobals (m : Memory) : Globals :=
  let l := m.bytes
  { station := imageId (word16At l 5),
    limits := #v[word16At l 7, word16At l 9, word16At l 11, word16At l 13],
    leaseTimeout := byteAt l 15, enables := (byteAt l 16).setWidth 7 }

/-- The bank number a fault's sequence field carries: 0 for A, 1 for B (R155). -/
def bankNumber : BankId → Word16
  | .a => 0#16
  | .b => 1#16

/-- The fault a load raises: IMAGE_BANK_BAD when the bank beside the chosen one is bad, IMAGE_CORRUPT when none is
valid and one is bad (R168). -/
def loadFault (b : PerBank Memory) : Option FaultInfo :=
  match newestBank b with
  | some x =>
    if (b.get (otherBank x)).condition = .bad then
      some { kind := .imageBankBad, seq := some (bankNumber (otherBank x)) }
    else none
  | none => if imageStateOf b = .corrupt then some { kind := .imageCorrupt } else none

/-- A bank whose erase or write was cut short in the `n`-th way: bad, or erased where the free bytes are no bad
bank (R172, log 14). -/
def cutBank (n : Nat) : Memory :=
  let m := Memory.ofBytes ((List.range bankSize).map (Config.cutBankByte n))
  if m.condition = .bad then m else []

/-- The target of a failed read back that read as `m`: as read, which is bad; where `m` itself is not bad, free bytes in the
`n`-th way, and a bank of 00h where these are not bad either (R171, log 15). -/
def failedBank (n : Nat) (m : Memory) : Memory :=
  if m.condition = .bad then m
  else if (cutBank n).condition = .bad then cutBank n else Memory.ofBytes (List.replicate bankSize 0#8)

/-! ### Starting a save or a seal -/

/-- The target bank: the one that is not the newest valid bank, A when none is valid (R170). -/
def targetBank (b : PerBank Memory) : BankId :=
  match newestBank b with
  | some x => otherBank x
  | none => .a

/-- The save count to write: the newest valid bank's + 1, or 1 when no bank is valid (R170). -/
def nextSaveCount (b : PerBank Memory) : Word32 :=
  match newestBank b with
  | some x => (b.get x).saveCount + 1
  | none => 1#32

/-- The save that a SAVE_IMAGE taken now begins (R170). -/
def State.saveJob (s : State) (m : Word16) : BankJob :=
  { target := targetBank s.banks, phase := .erase, saveCount := nextSaveCount s.banks, manager := m,
    bytes := withCheckWord (s.liveContent (nextSaveCount s.banks) 0#8) }

/-- The seal that a SEAL_IMAGE taken now begins: the source is the bank that is not the target (R173). -/
def State.sealJob (s : State) (m : Word16) : BankJob :=
  { target := targetBank s.banks, phase := .erase, saveCount := nextSaveCount s.banks, manager := m,
    bytes := withCheckWord (sealedContent (s.banks.get (otherBank (targetBank s.banks))) (nextSaveCount s.banks)) }

end Sys2Proof.Machine
end

