-- ==== Sys2Proof/Machine/Resets.lean ====
section
/-! DEFINITION. The four resets (R168, R169, R134, Tables 1-9, 2-6, 3-2, 4-4, 5-3, 6-4, 7-4, 8-4, 10-6) and what
a save or seal cut short leaves (R172). -/

namespace Sys2Proof.Machine

/-- A port in its reset state; the signal on its receive pair is the surroundings' (Table 6-4). -/
def resetPort (p : PortState) : PortState := { PortState.reset with signal := p.signal }

/-- Every block in its reset state, before any load (R168). The banks keep their contents (R165). -/
def State.cleared (s : State) (ph : Phase) : State :=
  { State.reset with
    phase := ph
    rstnLow := s.rstnLow
    ports := ⟨resetPort s.ports.f0, resetPort s.ports.f1, resetPort s.ports.l⟩
    banks := s.banks
    freeIx := s.freeIx
    pending := s.pending }

/-- The fault of a load (R168), with the count for its stamp until the load ends (log 9). -/
def State.raiseLoadFault (s : State) : State :=
  match loadFault s.banks with
  | some f => s.raiseFault f
  | none => s

/-- The table, station and globals of the chosen bank, or an empty table and the defaults (R169). -/
def State.installImage (s : State) : State :=
  match newestBank s.banks with
  | some x => { s with slots := loadSlots (s.banks.get x), globals := loadGlobals (s.banks.get x) }
  | none => { s with slots := Vector.replicate 64 none, globals := Globals.default }

/-- The start-up load: banks read and judged, state derived, faults raised, image installed, generation 1 (R168). -/
def State.startUpLoad (s : State) : State :=
  { ({ s with imageState := imageStateOf s.banks }).raiseLoadFault.installImage with generation := 1#16 }

/-- A power-on, pin reset or FULL reset is taken: reset state, count 0, and the load (R168). -/
def State.takeReset (s : State) : State := (s.cleared .loading).startUpLoad

/-- The target bank of an interrupted job: cut in its erase or write phase, as written in its read back (R172). -/
def State.cutJob (s : State) (j : BankJob) : State :=
  match j.phase with
  | .erase => { s with banks := s.banks.set j.target (cutBank s.freeIx), freeIx := s.freeIx + 1, op := .idle }
  | .write => { s with banks := s.banks.set j.target (cutBank s.freeIx), freeIx := s.freeIx + 1, op := .idle }
  | .readBack => { s with op := .idle }

/-- A save or seal in progress is ended at once by a power-on, a power loss or RSTn low for 1 µs (R172). -/
def State.interrupt (s : State) : State :=
  match s.op with
  | .save j => s.cutJob j
  | .seal j => s.cutJob j
  | .idle => s
  | .commit _ _ => s

/-- A signal detection moves a DOWN port of the running part to ALIGNING: timer started, run 0 (R87). -/
def State.detect (s : State) (p : Port) : State :=
  if s.phase = .running ∧ (s.port p).signal = true ∧ (s.port p).link = .down then s.setLink p (.aligning 0 false false)
  else s

/-- The interval timer an ACTIVE stream runs afresh; a SUSPENDED one has none (R66, R68). -/
def startedTimer (suspended : Bool) (cfg : StreamConfig) : Option Byte :=
  if suspended || cfg.burst == 0#8 then none else some cfg.interval

/-- The stream with its interval timer started afresh, or stopped (R68). -/
def Stream.startTimer (st : Stream) : Stream := { st with intervalTimer := startedTimer st.suspended st.cfg }

/-- The kinds of fault that a start-up load raises, and nothing else (R168, Table 10-1). -/
def raisedByLoad : FaultKind → Bool
  | .imageBankBad => true
  | .imageCorrupt => true
  | .headerError | .malformed | .poolEmpty | .unknownStream | .formatMismatch | .fieldControl | .damageDropped
  | .twinMismatch | .repairFull | .streamResync | .saveFailed => false

/-- The count at which a load that ends at `count` read the banks: a free value from 0 to 4, and not above `count`
(R154, R168; log 9). -/
def readingTime (n : Nat) (count : Word32) : Word32 := BitVec.ofNat 32 (min count.toNat (Config.loadReadTime n % 5))

/-- A fault record with its stamps at a time, when a load raised it. -/
def FaultRecord.stampLoad (time : Word32) (f : FaultRecord) : FaultRecord :=
  if raisedByLoad f.kind then { f with firstTime := time, lastTime := time } else f

/-- The fault of the load that ends is stamped with the count at the reading (R154, R168; log 9). -/
def State.stampLoadFault (s : State) : State :=
  if s.faults.any (fun f => raisedByLoad f.kind) then
    { s with faults := s.faults.map (FaultRecord.stampLoad (readingTime s.freeIx s.count)), freeIx := s.freeIx + 1 }
  else s

/-- The end of the start-up load: alignment words begin, present signals are detected, interval timers start, the
agent may take requests (R168). -/
def State.endLoad (s : State) : State :=
  ((({ s.stampLoadFault with phase := .running }).mapAllStreams Stream.startTimer).detect .f0).detect .f1 |>.detect .l

/-- The running state of a stream after a TRAFFIC reset (R19, R68, R84). -/
def Stream.trafficReset (st : Stream) : Stream :=
  { st.emptyHistory with
    paths := freshPaths
    credits := st.cfg.burst
    intervalTimer := startedTimer st.suspended st.cfg }

/-- A port after a TRAFFIC reset: reception ended without a counter, transmission ended with an abort marker,
link, alignment, error times and counters kept (Table 6-4, R97). -/
def trafficPort (p : PortState) : PortState :=
  { p with
    reception := none
    tx := none
    lastEnd := if p.tx.isSome then some .abortMarker else p.lastEnd }

/-- Every notice frame in the lane or in transmission on L is reported not sent (R163, R164). -/
def State.reportReleased (s : State) : State :=
  ((s.port .l).tx.toList ++ s.lane).foldl (fun s x => s.reportNotSent x.origin) s

/-- The cells of the frames in the request queue (R111, R134). -/
def State.requestCells (s : State) : List CellId := s.agent.requests.flatMap (fun f => f.cells)

/-- Every repair slot is discarded with its DISCARDED count (R56). -/
def State.discardAll (s : State) : State := allRepair.foldl (fun s r => s.discardHeld r) s

/-- A TRAFFIC reset (R134): every frame but the queued requests is released, histories, repair slots, credits,
timers and paths start afresh; table, counters, lease, cache, staging, notices and links are kept. -/
def State.trafficReset (s : State) : State :=
  let s := (s.discardAll.mapAllStreams Stream.trafficReset).reportReleased
  { s with
    ports := ⟨trafficPort s.ports.f0, trafficPort s.ports.f1, trafficPort s.ports.l⟩
    lane := []
    classes := Vector.replicate 4 []
    command := ⟨[], []⟩
    free := allCells.filter (fun c => !s.requestCells.contains c) }

end Sys2Proof.Machine
end

