-- ==== Sys2Proof/Machine/Links.lean ====
section
/-! DEFINITION. Link loss and link return (R80, R81, R98 to R100) and abandoned receptions (R91). -/

namespace Sys2Proof.Machine

/-- A reception in progress ends without becoming a frame: its cells return, a per-port counter counts (R91). -/
def State.abandon (s : State) (p : Port) (c : PortCtr) : State :=
  match (s.port p).reception with
  | some r => ((s.setReception p none).returnCells r.cells).bumpPort p c
  | none => s

/-- A reception abandoned as MALFORMED: cells, counter, fault (R91). -/
def State.abandonMalformed (s : State) (p : Port) : State :=
  match (s.port p).reception with
  | some _ => (s.abandon p .malformed).raiseFault { kind := .malformed, port := some p }
  | none => s

/-- What a refused cell counts and raises (R91). -/
def State.poolEmpty (s : State) (p : Port) : State :=
  (s.bumpPort p .poolEmpty).raiseFault { kind := .poolEmpty, port := some p }

/-- A reception abandoned as POOL_EMPTY: cells, counter, fault (R91). -/
def State.abandonPoolEmpty (s : State) (p : Port) : State :=
  match (s.port p).reception with
  | some r => ((s.setReception p none).returnCells r.cells).poolEmpty p
  | none => s

/-- A transmission in progress is cut by a link loss: the hold is released, TX_ABORTED counts, the frame is
reported not sent (R97, R114). -/
def State.cutTx (s : State) (p : Port) : State :=
  match (s.port p).tx with
  | some x => (((s.closeTx p .cut).releaseTx p x.frame).bumpPort p .txAborted).reportNotSent x.origin
  | none => s

/-- The link of field port `p` goes from UP to DOWN (R98), and a present signal is detected again (R87). -/
def State.fieldLinkLoss (s : State) (p : FPort) : State :=
  let q := portOf p
  ((((((s.setLink q .down).abandon q .aborted).cutTx q).flush (.command p)).pathsLinkLoss p).forceResolve
    (otherPort p)).detect q

/-- A frame is the OK response of a RESET_PART FULL (R135). -/
def isResetResponse (x : Queued) : Bool :=
  match x.origin with
  | .response full => full
  | .data => false
  | .command => false
  | .passThrough => false
  | .notice _ => false

/-- The response of a pending FULL reset waits in the lane or is in transmission (R100, R135). -/
def State.resetResponseOnL (s : State) : Bool := s.lane.any isResetResponse || (s.port .l).tx.any isResetResponse

/-- What a loss of link does on L, before a pending FULL reset is looked at (R100). -/
def State.dropLine (s : State) : State :=
  ((((((s.setLink .l .down).abandon .l .aborted).cutTx .l).flush .lane).flush (.cls 0)).flush (.cls 1)).flush (.cls 2)
    |>.flush (.cls 3)

/-- The link of L goes from UP to DOWN (R100): a FULL reset whose response is lost is taken at the end (R135). -/
def State.lineLinkLoss (s : State) : State :=
  if s.agent.fullPending && s.resetResponseOnL then s.dropLine.takeReset else s.dropLine.detect .l

/-- A loss of link (§6.6). -/
def State.linkLoss (s : State) (p : Port) : State :=
  match p with
  | .f0 => s.fieldLinkLoss .f0
  | .f1 => s.fieldLinkLoss .f1
  | .l => s.lineLinkLoss

/-- The link of a port goes from ALIGNING to UP (R88, R99, R100): no line-code error is kept. -/
def State.linkComesUp (s : State) (p : Port) : State :=
  let s := s.setLink p (.up [])
  match p with
  | .f0 => s.pathsLinkUp .f0
  | .f1 => s.pathsLinkUp .f1
  | .l => s

end Sys2Proof.Machine
end

