-- ==== Sys2Proof/Machine/Staging.lean ====
section
/-! DEFINITION. The staging area, validation and the two ends of a commit (Chapter 9). -/

namespace Sys2Proof.Machine

/-! ### The staging area -/

/-- The staging area's places (R137). -/
def stagingLimit : Nat := 16

/-- Two records stand for the same slot, or are both the globals record (R137). -/
def sameRecordTarget : Staged → Staged → Bool
  | .entry k _ _, .entry j _ _ => k == j
  | .globals _, .globals _ => true
  | .entry _ _ _, .globals _ => false
  | .globals _, .entry _ _ _ => false

/-- The area after a record is staged: it replaces the record of its target in place, or joins the end; none when
there is no room (R138, R139). -/
def stageInto (area : List Staged) (r : Staged) : Option (List Staged) :=
  if area.any (sameRecordTarget r) then some (area.map (fun x => if sameRecordTarget r x then r else x))
  else if area.length < stagingLimit then some (area ++ [r])
  else none

/-! ### Validation -/

/-- The configuration a slot record brings (R143). -/
def stagedConfig : Staged → Option StreamConfig
  | .entry _ .install (some f) => configOf f
  | .entry _ .modify (some f) => configOf f
  | _ => none

/-- A record of the set is for slot `k`. -/
def isEntryFor (k : Fin 64) : Staged → Bool
  | .entry j _ _ => j == k
  | .globals _ => false

/-- The configuration slot `k` holds in the resulting table, if it is non-FREE there (R143). -/
def State.resultingConfig (s : State) (records : List Staged) (k : Fin 64) : Option StreamConfig :=
  match records.find? (isEntryFor k) with
  | some (.entry _ .install f) => stagedConfig (.entry k .install f)
  | some (.entry _ .modify f) => stagedConfig (.entry k .modify f)
  | some (.entry _ .retire _) => none
  | _ => (s.stream k).map (fun st => st.cfg)

/-- Test 1 of Table 9-2: the slot's state does not fit the action (Table 1-7). -/
def slotStateFails (st : Option Stream) : Action → Bool
  | .install => st.isSome
  | .modify => st.isNone
  | .retire => st.isNone
  | .suspend => st.isNone
  | .resume => !st.any (fun x => x.suspended)
  | .lock => st.isNone

/-- The actions a lock refuses (R10). -/
def refusedByLock : Action → Bool
  | .modify => true
  | .retire => true
  | .suspend => true
  | .resume => true
  | .install => false
  | .lock => false

/-- A slot other than `k` holds, in the resulting table, an id that `same` finds equal (R143). -/
def State.takenByOther (s : State) (records : List Staged) (k : Fin 64) (same : StreamConfig → Bool) : Bool :=
  allSlots.any (fun j => (j != k) && (s.resultingConfig records j).any same)

/-- Table 9-2: why a record of the set fails, if it does (R142). -/
def State.testRecord (s : State) (records : List Staged) : Staged → Option CommitReason
  | .globals _ => none
  | .entry k act f =>
    if slotStateFails (s.stream k) act then some .slotState
    else if refusedByLock act && (s.stream k).any (fun x => x.locked) then some .entryLocked
    else
      match stagedConfig (.entry k act f) with
      | none => none
      | some c =>
        if (act == .modify) && (s.stream k).any (fun x => x.cfg.fieldId != c.fieldId) then some .fieldIdChanged
        else if s.takenByOther records k (fun x => x.fieldId == c.fieldId) then some .fieldIdTaken
        else if s.takenByOther records k (fun x => x.lineId == c.lineId) then some .lineIdTaken
        else none

/-- The records tested in index order, from index `i`: the first failure rejects (R142, R144). -/
def State.validateFrom (s : State) (records : List Staged) : Nat → List Staged → CommitResult
  | _, [] => .applied
  | i, r :: rest =>
    match s.testRecord records r with
    | some reason => .rejected i reason
    | none => s.validateFrom records (i + 1) rest

/-- Validation of a commit's set (R142). -/
def State.validate (s : State) (records : List Staged) : CommitResult := s.validateFrom records 0 records

/-! ### Effects by action (§9.5) -/

/-- The smaller of two numbers of one byte. -/
def minByte (x y : Byte) : Byte := if x.toNat ≤ y.toNat then x else y

/-- The interval timer of an ACTIVE stream after a MODIFY (Table 4-3). -/
def timerAfterModify (st : Stream) (c : StreamConfig) : Option Byte :=
  if st.suspended || c.burst == 0#8 then none
  else if st.cfg.burst = 0#8 then some c.interval
  else st.intervalTimer

/-- The stream after a MODIFY: configuration replaced whole, credits and timer by Table 4-3, the rest kept (R147). -/
def Stream.modified (c : StreamConfig) (st : Stream) : Stream :=
  { st with cfg := c, credits := minByte st.credits c.burst, intervalTimer := timerAfterModify st c }

/-- The stream after a SUSPEND: running state kept and frozen, timers stopped (R149). -/
def Stream.suspendedNow (st : Stream) : Stream :=
  { st with
    suspended := true
    paths := ⟨frozenPath st.paths.f0, frozenPath st.paths.f1⟩
    intervalTimer := none }

/-- The stream after a RESUME: history empty, paths FRESH, credits burst, timer started, counters kept (R149). -/
def Stream.resumed (st : Stream) : Stream :=
  { st.emptyHistory with
    suspended := false
    paths := freshPaths
    credits := st.cfg.burst
    intervalTimer := startedTimer false st.cfg }

/-- The stream an INSTALL starts (R146). -/
def installedStream (c : StreamConfig) (suspended : Bool) : Stream := (newStream c suspended false).startTimer

/-- The slot after a record's action (Table 9-3, R146 to R150). A record without the configuration its action
needs, which no run stages, changes nothing (log 22). -/
def slotAfter (act : Action) (f : Option EntryFields) (old : Option Stream) : Option Stream :=
  match act with
  | .install =>
    match f.bind configOf with
    | some c => some (installedStream c (((f.bind initialSuspended)).getD false))
    | none => old
  | .modify =>
    match f.bind configOf with
    | some c => old.map (Stream.modified c)
    | none => old
  | .retire => none
  | .suspend => old.map Stream.suspendedNow
  | .resume => old.map Stream.resumed
  | .lock => old.map (fun st => { st with locked := true })

/-- A record's action discards the slot's held copies: RETIRE, SUSPEND, MODIFY with a new partition size (R55). -/
def discardsHeld (act : Action) (f : Option EntryFields) (old : Option Stream) : Bool :=
  match act with
  | .retire => true
  | .suspend => true
  | .modify => (f.bind configOf).any (fun c => old.any (fun st => st.cfg.size != c.size))
  | .install => false
  | .resume => false
  | .lock => false

/-- Each globals field a record carries takes its staged value (R150). -/
def applyGlobals (f : GlobalsFields) (g : Globals) : Globals :=
  { station := (f.station.map (BitVec.setWidth 12)).getD g.station,
    limits := #v[f.limit0.getD g.limits[0], f.limit1.getD g.limits[1], f.limit2.getD g.limits[2],
      f.limit3.getD g.limits[3]],
    leaseTimeout := f.lease.getD g.leaseTimeout, enables := f.enables.getD g.enables }

/-- One record takes effect: its slot's held copies are discarded where the action says so, then the slot changes
(R145 to R150). -/
def State.applyRecord (s : State) : Staged → State
  | .globals f => { s with globals := applyGlobals f s.globals }
  | .entry k act f =>
    let s' := if discardsHeld act f (s.stream k) then s.discardStream k else s
    s'.setSlot k (slotAfter act f (s'.stream k))

/-- The next table generation: from 65535 it wraps to 1 (R12). -/
def nextGeneration (g : Word16) : Word16 := if g = 65535#16 then 1#16 else g + 1

/-- The lease timer at the end of an operation: full duration, if the lease is held (R124). -/
def State.restartLease (s : State) : State :=
  s.setAgent { s.agent with
    lease := s.agent.lease.map (fun l => { l with timer := some s.globals.leaseTimeout }) }

/-- The end of a long operation (R122, R124). -/
def State.endOperation (s : State) : State := { s with op := .idle }.restartLease

/-- An APPLIED commit end, less its notice (R145). -/
def State.applyCommit (s : State) (records : List Staged) : State :=
  let s' := records.foldl State.applyRecord s
  { s' with generation := nextGeneration s'.generation, staging := [] }.endOperation

/-- The commit end of a set: APPLIED or REJECTED, and COMMIT_DONE last (R144, R145, R152). -/
def State.endCommit (s : State) (records : List Staged) (m : Word16) : State :=
  let result := s.validate records
  let s' := match result with
    | .applied => s.applyCommit records
    | .rejected _ _ => s.endOperation
  s'.raiseNotice (.commitDone result s'.generation records.length m)

end Sys2Proof.Machine
end

