-- ==== Sys2Proof/Machine/Agent.lean ====
section
/-! DEFINITION. The management agent (Chapter 8): judging a request, executing it, building and placing its
response, the lease and the response cache. -/

namespace Sys2Proof.Machine

/-! ### Lease and cache -/

/-- The manager id holds the lease (R123). -/
def State.holds (s : State) (m : Word16) : Bool :=
  match s.agent.lease with
  | some l => l.holder == m
  | none => false

/-- The lease ends: lease free, timer stopped, staging area and cache emptied (R124, R126). -/
def State.endLease (s : State) : State :=
  { s.setAgent { s.agent with lease := none, cache := none } with staging := [] }

/-- The lease timer restarts at the take of a holder's request, if it is running (R120, R124). -/
def State.touchLease (s : State) (m : Word16) : State :=
  match s.agent.lease with
  | some l =>
    if l.holder = m ∧ l.timer.isSome then
      s.setAgent { s.agent with lease := some { l with timer := some s.globals.leaseTimeout } }
    else s
  | none => s

/-- The lease timer stops when an operation begins (R124). -/
def State.stopLease (s : State) : State :=
  s.setAgent { s.agent with lease := s.agent.lease.map (fun l => { l with timer := none }) }

/-- Step 2 of Table 8-1: the response to repeat when the holder sends the cached tag again (R121). -/
def State.cachedFor (s : State) (m t : Word16) : Option (List Byte) :=
  match s.agent.cache with
  | some e => if s.holds m && (e.tag == t) then some e.content else none
  | none => none

/-! ### Placing a response -/

/-- The cells of a response with a payload (R107, R108). -/
def responseCells (payload : List Byte) : Nat := cellsFor (frameLength 32 (partsFor payload))

/-- The response frame, under the present station address (R117). -/
def State.responseFrame (s : State) (t : Word16) (payload : List Byte) : List Byte :=
  mgmtFrame .mgmtRsp s.globals.station t payload

/-- A response joins the lane when the lane has room and the pool grants its cells; none when either fails (R108). -/
def State.tryPlace (s : State) (t : Word16) (payload : List Byte) (full : Bool) : Option State :=
  if s.roomFor .lane (responseCells payload) then
    match s.grant (responseCells payload) 0 with
    | some (cells, s') => some (s'.enqueue .lane ⟨⟨s.responseFrame t payload, cells⟩, .response full⟩)
    | none => none
  else none

/-- A response is placed, or dropped and counted RESPONSE_DROPPED (R108). -/
def State.place (s : State) (t : Word16) (payload : List Byte) : State :=
  match s.tryPlace t payload false with
  | some s' => s'
  | none => s.bumpGlobal .responseDropped

/-- A response that the cache takes: every status but BUSY and BAD_FRAME (R121). -/
def cacheable : Status → Bool
  | .busy => false
  | .badFrame => false
  | _ => true

/-- The payload of a response: code, status, results (R177). -/
def responsePayload (code : Byte) (st : Status) (results : List Byte) : List Byte := [code, statusCode st] ++ results

/-- The cache takes the response just built for the manager that holds the lease at the end of the take (R121). -/
def State.cacheResponse (s : State) (m t : Word16) (st : Status) (payload : List Byte) : State :=
  if s.holds m && cacheable st then s.setAgent { s.agent with cache := some ⟨t, payload⟩ } else s

/-- A request is answered: its response placed or dropped, then cached (R108, R121). -/
def State.answer (s : State) (m t : Word16) (code : Byte) (st : Status) (results : List Byte) : State :=
  (s.place t (responsePayload code st results)).cacheResponse m t st (responsePayload code st results)

/-! ### Judging (Table 8-1) -/

/-- Requests that pass while an operation is in progress (Table 8-2). -/
def passesDuring (holder : Bool) : Request → Bool
  | .identify => true
  | .readEntry _ => true
  | .readStaging _ => true
  | .readStreamCounters _ clear => clear == 0#8
  | .readPortCounters clear _ => clear == 0#8
  | .openSession => holder
  | .closeSession => true
  | .readFaults _ => false
  | .stageEntry _ _ _ _ => false
  | .stageGlobals _ => false
  | .discardStaging => false
  | .commit => false
  | .saveImage => false
  | .sealImage => false
  | .resetPart _ => false
  | .unknown _ => false

/-- Requests that need the lease (R127). -/
def needsLease : Request → Bool
  | .identify => false
  | .readEntry _ => false
  | .readStaging _ => false
  | .readStreamCounters _ clear => clear != 0#8
  | .readPortCounters clear _ => clear != 0#8
  | .openSession => false
  | .closeSession => false
  | .readFaults _ => true
  | .stageEntry _ _ _ _ => true
  | .stageGlobals _ => true
  | .discardStaging => true
  | .commit => true
  | .saveImage => true
  | .sealImage => true
  | .resetPart _ => true
  | .unknown _ => false

/-- Step 6: every argument is within its range (R1, R120, R130, R132, R177). -/
def argumentsOk : Request → Bool
  | .readEntry slot => decide (slot.toNat ≤ 63)
  | .readStreamCounters slot clear => decide (slot.toNat ≤ 63) && decide (clear.toNat ≤ 1)
  | .readPortCounters clear page => decide (clear.toNat ≤ 1) && decide (page.toNat ≤ 1)
  | .readFaults n => decide (1 ≤ n.toNat) && decide (n.toNat ≤ 6)
  | .stageEntry slot action present _ =>
    decide (slot.toNat ≤ 63) && (actionOfCode action).isSome && decide (present.toNat ≤ 1)
  | .readStaging first => decide (first.toNat ≤ 15)
  | .resetPart kind => (kind == 1#8) || (kind == 2#8)
  | _ => true

/-- Steps 3 to 6 of Table 8-1: the status that refuses a request, if one does (R120). -/
def State.refusal (s : State) (m : Word16) (r : Request) : Option Status :=
  match r with
  | .unknown _ => some .unknownRequest
  | r =>
    if s.op ≠ .idle ∧ passesDuring (s.holds m) r = false then some .busy
    else if needsLease r && !s.holds m then some .noSession
    else if argumentsOk r then none
    else some .badArgument

/-! ### Results (Table 12-6) -/

/-- Presence marks in one byte. -/
def marksByte (l : List Bool) : Byte := (marksOf l).setWidth 8

/-- The results of IDENTIFY (R128). -/
def State.identifyResults (s : State) : List Byte :=
  [0x0C#8, 0x01#8] ++ idBytes s.globals.station ++ [imageCode s.imageState, marksByte [s.agent.lease.isSome]] ++
    be16 s.generation ++ be32 s.count ++ be16 ((s.agent.lease.map (fun l => l.holder)).getD 0#16) ++
    [byteOf s.staging.length, operationCode s.op]

/-- The results of READ_ENTRY from the slot state on, for a non-FREE slot (R20). -/
def streamResults (st : Stream) : List Byte :=
  [slotStateCode (slotStateOf (some st)), if st.locked then 1#8 else 0#8,
    marksByte [true, st.history.isSome, st.candidate.isSome, true, true]] ++
    entryRecordBytes (entryRecordOfConfig st.cfg) ++
    be16 ((st.history.map (fun h => h.top)).getD 0#16) ++
    (match st.candidate with
     | some c => [portCode (portOf c.port)] ++ be16 c.next ++ [byteOf c.run]
     | none => [0#8, 0#8, 0#8, 0#8]) ++
    [pathCode st.paths.f0, pathCode st.paths.f1, st.credits]

/-- The results of READ_ENTRY; everything but state and lock is absent for a FREE slot (R8, R20). -/
def State.entryResults (s : State) (slot : Byte) (k : Fin 64) : List Byte :=
  [slot] ++ be16 s.generation ++
    match s.stream k with
    | some st => streamResults st
    | none => List.replicate 30 0#8

/-- Counters in report order, 4 bytes each. -/
def counterBytes (l : List Word32) : List Byte := l.flatMap be32

/-- The per-stream counters of a slot, zeros for a FREE slot (R129). -/
def State.streamCounters (s : State) (k : Fin 64) : Vector Word32 21 :=
  match s.stream k with
  | some st => st.counters
  | none => Vector.replicate 21 0#32

/-- A number of cells in two bytes. -/
def cells16 (n : Nat) : List Byte := be16 (BitVec.ofNat 16 n)

/-- The view of the pool in page 0 (R115). -/
def State.poolView (s : State) : List Byte :=
  cells16 s.free.length ++ [byteOf (cellCount s.lane)] ++
    allClasses.flatMap (fun c => cells16 (cellCount (s.queue (.cls c)))) ++
    [byteOf (cellCount s.command.f0), byteOf (cellCount s.command.f1)] ++
    s.globals.limits.toList.flatMap be16

/-- The results of READ_PORT_COUNTERS (R130). -/
def State.portCounterResults (s : State) (page : Byte) : List Byte :=
  [page] ++
    (if page = 0#8 then
      counterBytes s.ports.f0.counters.toList ++ counterBytes s.ports.f1.counters.toList ++
        counterBytes s.ports.l.counters.toList ++ s.poolView
     else counterBytes s.globalCtrs.toList)

/-- The counters of a page zeroed (R130, R159). -/
def State.clearPage (s : State) (page : Byte) : State :=
  if page = 0#8 then
    { s with ports :=
        ⟨{ s.ports.f0 with counters := Vector.replicate 7 0#32 },
         { s.ports.f1 with counters := Vector.replicate 7 0#32 },
         { s.ports.l with counters := Vector.replicate 7 0#32 }⟩ }
  else { s with globalCtrs := Vector.replicate 21 0#32 }

/-- A fault record as 17 bytes (Table 12-7). -/
def faultBytes (r : FaultRecord) : List Byte :=
  [faultCode r.kind, marksByte [r.port.isSome, r.fieldId.isSome, r.seq.isSome, r.part.isSome],
    (r.port.map portCode).getD 0#8, byteOf (r.part.getD 0)] ++
    idBytes (r.fieldId.getD 0#12) ++ be16 (r.seq.getD 0#16) ++ be32 r.firstTime ++ be32 r.lastTime ++ [r.repeats]

/-- The results of READ_FAULTS with a maximum (R131). -/
def State.faultResults (s : State) (n : Nat) : List Byte :=
  [byteOf (min n s.faults.length)] ++ be16 s.overflow ++ (s.faults.take n).flatMap faultBytes

/-- A staged record as 20 bytes, under its index (R140, Table 12-6). -/
def stagedBytes (i : Nat) : Staged → List Byte
  | .entry k act f =>
    [byteOf (16 * i) ||| actionCode act, byteOf k.val] ++
      (match f with
       | some f => entryRecordBytes (entryRecordOf f)
       | none => List.replicate 18 0#8)
  | .globals f => [byteOf (16 * i), 0xFF#8] ++ globalsRecordBytes (globalsRecordOf f) ++ List.replicate 5 0#8

/-- The records READ_STAGING reports from an index on, up to 6 (R132). -/
def State.reportedRecords (s : State) (first : Nat) : List (Staged × Nat) := (s.staging.zipIdx.drop first).take 6

/-- The results of READ_STAGING (R132). -/
def State.stagingResults (s : State) (first : Nat) : List Byte :=
  [byteOf s.staging.length, byteOf (s.reportedRecords first).length] ++
    (s.reportedRecords first).flatMap (fun x => stagedBytes x.2 x.1)

/-! ### Execution (step 7) -/

/-- What a request's execution gives: the state, the status, the results. -/
structure Reply where
  state   : State
  status  : Status
  results : List Byte

/-- The slot an argument byte names. -/
def slotOf (b : Byte) : Fin 64 := Fin.ofNat 64 b.toNat

/-- OPEN_SESSION (R123). -/
def State.runOpenSession (s : State) (m : Word16) : Reply :=
  match s.agent.lease with
  | none =>
    ⟨s.setAgent { s.agent with lease := some ⟨m, some s.globals.leaseTimeout⟩, cache := none }, .ok, be16 m⟩
  | some l => if l.holder = m then ⟨s, .ok, be16 m⟩ else ⟨s, .held, be16 l.holder⟩

/-- CLOSE_SESSION (R126). -/
def State.runCloseSession (s : State) (m : Word16) : Reply :=
  if s.holds m then ⟨s.endLease, .ok, []⟩ else ⟨s, .noSession, []⟩

/-- READ_STREAM_COUNTERS, with the clear in the same take (R129). -/
def State.runReadStreamCounters (s : State) (slot clear : Byte) : Reply :=
  let results := [slot] ++ counterBytes (s.streamCounters (slotOf slot)).toList
  if clear = 0#8 then ⟨s, .ok, results⟩
  else ⟨s.mapStream (slotOf slot) (fun st => { st with counters := Vector.replicate 21 0#32 }), .ok, results⟩

/-- READ_PORT_COUNTERS, with the clear of its page in the same take (R130). -/
def State.runReadPortCounters (s : State) (clear page : Byte) : Reply :=
  if clear = 0#8 then ⟨s, .ok, s.portCounterResults page⟩ else ⟨s.clearPage page, .ok, s.portCounterResults page⟩

/-- READ_FAULTS (R131, R158). -/
def State.runReadFaults (s : State) (n : Byte) : Reply :=
  ⟨{ s with faults := s.faults.drop n.toNat, overflow := 0#16 }, .ok, s.faultResults n.toNat⟩

/-- STAGE_ENTRY: configuration, lock and room, in this order (R138). -/
def State.runStageEntry (s : State) (slot action present : Byte) (rec : EntryRecord) : Reply :=
  let fields := if present = 1#8 then some (entryFields rec) else none
  match actionOfCode action with
  | none => ⟨s, .badArgument, []⟩
  | some act =>
    if entryOk act fields = false then ⟨s, .badArgument, []⟩
    else if refusedByLock act && (s.stream (slotOf slot)).any (fun x => x.locked) then ⟨s, .entryLocked, []⟩
    else
      match stageInto s.staging (.entry (slotOf slot) act fields) with
      | some area => ⟨{ s with staging := area }, .ok, []⟩
      | none => ⟨s, .stagingFull, []⟩

/-- STAGE_GLOBALS: ranges and room (R139). -/
def State.runStageGlobals (s : State) (rec : GlobalsRecord) : Reply :=
  if globalsOk (globalsFields rec) = false then ⟨s, .badArgument, []⟩
  else
    match stageInto s.staging (.globals (globalsFields rec)) with
    | some area => ⟨{ s with staging := area }, .ok, []⟩
    | none => ⟨s, .stagingFull, []⟩

/-- An operation begins within the take: the lease timer stops (R124, R133). -/
def State.beginOperation (s : State) (op : Operation) : State := { s with op := op }.stopLease

/-- COMMIT (R141). -/
def State.runCommit (s : State) (m : Word16) : Reply :=
  if s.staging.isEmpty then ⟨s, .nothingStaged, []⟩ else ⟨s.beginOperation (.commit s.staging m), .started, []⟩

/-- SAVE_IMAGE (R133, R170). -/
def State.runSaveImage (s : State) (m : Word16) : Reply :=
  if s.imageState = .sealed then ⟨s, .imageSealed, []⟩ else ⟨s.beginOperation (.save (s.saveJob m)), .started, []⟩

/-- SEAL_IMAGE (R133, R173). -/
def State.runSealImage (s : State) (m : Word16) : Reply :=
  match s.imageState with
  | .sealed => ⟨s, .imageSealed, []⟩
  | .blank => ⟨s, .imageNotValid, []⟩
  | .corrupt => ⟨s, .imageNotValid, []⟩
  | .valid => ⟨s.beginOperation (.seal (s.sealJob m)), .started, []⟩

/-- RESET_PART FULL (R135): the OK response is placed and the reset becomes pending; at once when L is not UP or the
response cannot be placed. -/
def State.runResetFull (s : State) (m t : Word16) (code : Byte) : State :=
  if s.linkUp .l then
    match s.tryPlace t (responsePayload code .ok []) true with
    | some s' =>
      let s' := s'.cacheResponse m t .ok (responsePayload code .ok [])
      s'.setAgent { s'.agent with fullPending := true }
    | none => s.takeReset
  else s.takeReset

/-- The request's reply is answered (R108, R121). -/
def Reply.answer (r : Reply) (m t : Word16) (code : Byte) : State := r.state.answer m t code r.status r.results

/-- A request that no step refused is executed and answered (R120, step 7). -/
def State.execute (s : State) (m t : Word16) (r : Request) : State :=
  match r with
  | .identify => s.answer m t 1#8 .ok s.identifyResults
  | .openSession => (s.runOpenSession m).answer m t 2#8
  | .closeSession => (s.runCloseSession m).answer m t 3#8
  | .readEntry slot => s.answer m t 4#8 .ok (s.entryResults slot (slotOf slot))
  | .readStreamCounters slot clear => (s.runReadStreamCounters slot clear).answer m t 5#8
  | .readPortCounters clear page => (s.runReadPortCounters clear page).answer m t 6#8
  | .readFaults n => (s.runReadFaults n).answer m t 7#8
  | .stageEntry slot action present rec => (s.runStageEntry slot action present rec).answer m t 8#8
  | .stageGlobals rec => (s.runStageGlobals rec).answer m t 9#8
  | .readStaging first => s.answer m t 10#8 .ok (s.stagingResults first.toNat)
  | .discardStaging => { s with staging := [] }.answer m t 11#8 .ok []
  | .commit => (s.runCommit m).answer m t 12#8
  | .saveImage => (s.runSaveImage m).answer m t 13#8
  | .sealImage => (s.runSealImage m).answer m t 14#8
  | .resetPart kind =>
    if kind = 1#8 then s.trafficReset.answer m t 15#8 .ok [] else s.runResetFull m t 15#8
  | .unknown code => s.answer m t code .unknownRequest []

/-! ### The take -/

/-- The agent may take a request: idle, no FULL reset pending (R119). -/
def State.agentReady (s : State) : Bool := !s.agent.busy && !s.agent.fullPending

/-- A turn begins (R119). -/
def State.beginTurn (s : State) : State := s.setAgent { s.agent with busy := true }

/-- A request whose frame is sound is judged from step 2 on and answered (R120, R121). -/
def State.judge (s : State) (m t : Word16) (r : Request) : State :=
  match s.cachedFor m t with
  | some content => s.place t content
  | none =>
    match s.refusal m r with
    | some st => s.answer m t (requestCode r) st []
    | none => s.execute m t r

/-- The take of a request whose frame is sound (R119 to R121): the turn begins, the holder's timer restarts. -/
def State.takeRequest (s : State) (m t : Word16) (r : Request) : State := (s.beginTurn.touchLease m).judge m t r

/-- The take of a frame that fails the frame test: BAD_FRAME, no lease, timer or cache touched (R120). -/
def State.takeBadFrame (s : State) (t : Word16) : State := s.beginTurn.place t (responsePayload 0#8 .badFrame [])

/-- The take of a request frame (R119, R120). -/
def State.takeFrame (s : State) (f : List Byte) : State :=
  if requestFrameOk f then
    s.takeRequest (managerOfPayload (mgmtPayload f)) (frameSeq f) (requestOfPayload (mgmtPayload f))
  else s.takeBadFrame (frameSeq f)

/-- The agent, when it may, takes the oldest request: the frame is released, then judged and answered (R108, R119). -/
def State.runAgent (s : State) : State :=
  if s.agentReady then
    match s.agent.requests with
    | f :: rest => ((s.setAgent { s.agent with requests := rest }).release f).takeFrame f.bytes
    | [] => s
  else s

/-- The request queue's places (R118). -/
def requestLimit : Nat := 4

/-- A consumed request is offered to the request queue (R118). -/
def State.offerRequest (s : State) (f : Frame) : State :=
  if s.agent.requests.length < requestLimit then
    s.setAgent { s.agent with requests := s.agent.requests ++ [f] }
  else (s.release f).bumpGlobal .requestOverflow

/-- A consumed request, and its take if the agent may take it at once (R118, R119). -/
def State.consumeRequest (s : State) (f : Frame) : State := (s.offerRequest f).runAgent

/-- A request comes to the agent in a frame of its own, in cells that L asks for, `take` being its take: when the agent may
take it at once, its cells return and it is taken in the same happening; else the frame is offered to the request queue;
refused cells are POOL_EMPTY of L (R102, R108, R118, R119; log 6). -/
def State.requestComes (s : State) (bytes : List Byte) (take : State → State) : State :=
  match s.grant (cellsFor bytes.length) 0 with
  | some (cells, s') =>
    if s'.agentReady && s'.agent.requests.isEmpty then take (s'.release ⟨bytes, cells⟩)
    else s'.consumeRequest ⟨bytes, cells⟩
  | none => s.poolEmpty .l

/-- The frame of a request to this part (R176, R177). -/
def State.requestFrame (s : State) (m t : Word16) (r : Request) : List Byte :=
  mgmtFrame .mgmtReq s.globals.station t (requestPayload m r)

/-- A request row of the table: the request comes in its frame (R119; log 6). -/
def State.agentRequest (m t : Word16) (r : Request) (s : State) : State :=
  s.requestComes (s.requestFrame m t r) (fun s => s.takeRequest m t r)

/-- The row BAD_FRAME: the same for a frame given byte by byte (R120; log 6). -/
def State.agentFrame (bytes : List Byte) (s : State) : State := s.requestComes bytes (fun s => s.takeFrame bytes)

end Sys2Proof.Machine
end

