-- ==== Sys2Proof/Machine/Classify.lean ====
section
/-! DEFINITION. The frame classifier and the repair unit: lookup, format check, partition checks, copies that
meet a held pair, the hold, and what each class of copy becomes (R15 to R17, R24 to R36, R39 to R50). -/

namespace Sys2Proof.Machine

/-- A DATA copy that passed the format check: its receiving port, stream slot, sequence, good-map (hence its
partition count) and frame (R39, R42). -/
structure Copy where
  port  : FPort
  slot  : Fin 64
  seq   : Word16
  good  : List Bool
  frame : Frame
  deriving DecidableEq, Repr

/-- Every mark of the good-map is good (R42). -/
def Copy.allGood (c : Copy) : Bool := c.good.all id

/-- The frame a copy brings to its own resolution: its port as via port, no MERGED flag, no mark. -/
def Copy.subject (c : Copy) : Subject :=
  { slot := c.slot, seq := c.seq, via := c.port, good := c.good, merged := false, mark := none, frame := c.frame }

/-- The copy is dropped: its cells return (R26, R39). -/
def State.dropCopy (s : State) (c : Copy) (ctr : StreamCtr) : State := (s.release c.frame).bumpStream c.slot ctr

/-! ### Lookup, format and partition checks -/

/-- The non-FREE slot that holds a field stream id, if any (R15). -/
def State.lookup (s : State) (id : Id12) : Option (Fin 64) :=
  allSlots.find? (fun k => (s.stream k).any (fun st => st.cfg.fieldId == id))

/-- The format check against a slot's partition size (R40). -/
def formatOk (f : List Byte) (size : PartSize) : Bool :=
  match sizeOfCode (byteAt f 0) with
  | some z => (f.length == frameLength (sizeBytes z) (frameCount f)) && (z == size)
  | none => false

/-- The counter the partition checks increment, GOOD or DAMAGED of the receiving port (R42). -/
def checkCounter (c : Copy) : StreamCtr := if c.allGood then .good c.port else .damaged c.port

/-- What the partition checks count, and the evidence an all-good copy gives (R42, R77). -/
def State.countChecks (s : State) (c : Copy) : State :=
  if c.allGood then (s.bumpStream c.slot (checkCounter c)).evidence c.slot c.port
  else s.bumpStream c.slot (checkCounter c)

/-! ### Copies that meet a held pair -/

/-- A repair slot holds the pair of stream slot and sequence (R43). -/
def holdsPair (k : Fin 64) (seq : Word16) (h : Option Held) : Bool :=
  h.any (fun h => h.slot == k && h.seq == seq)

/-- The repair slot that holds a pair, if one does (R43, R44). -/
def State.pairSlot (s : State) (k : Fin 64) (seq : Word16) : Option (Fin 8) :=
  allRepair.find? (fun r => holdsPair k seq (s.held r))

/-- The merged bytes: the partitions bad in the held copy and good in the arriving one are copied with their
check bytes into the held copy (R50). -/
def mergedBytes (size : Nat) (held arriving : List Byte) (heldGood newGood : List Bool) : List Byte :=
  held.take 8 ++ (List.range heldGood.length).flatMap (fun i =>
    if !heldGood.getD i false && newGood.getD i false then partWithCheck arriving size i
    else partWithCheck held size i)

/-- The merged good-map: good where either copy was good (R50). -/
def mergedMap (heldGood newGood : List Bool) : List Bool := heldGood.zipWith (fun a b => a || b) newGood

/-- The merged frame at its resolution: via the held port, in the held copy's cells, MERGED (R50). -/
def mergedSubject (size : Nat) (h : Held) (c : Copy) : Subject :=
  { slot := h.slot, seq := h.seq, via := h.port, good := mergedMap h.good c.good, merged := true, mark := none,
    frame := ⟨mergedBytes size h.frame.bytes c.frame.bytes h.good c.good, h.frame.cells⟩ }

/-- A twin of another count: the held copy is resolved alone, after the fault; the twin is dropped (R48). -/
def State.twinMismatch (s : State) (r : Fin 8) (c : Copy) (cfg : StreamConfig) : State :=
  ((s.release c.frame).raiseFault
    { kind := .twinMismatch, port := some (portOf c.port), fieldId := some cfg.fieldId, seq := some c.seq }).resolveHeld
    r false

/-- An all-good twin replaces the held copy and is resolved (R49). -/
def State.replaceHeld (s : State) (r : Fin 8) (h : Held) (c : Copy) : State :=
  (((s.setHeld r none).release h.frame).bumpStream c.slot .replaced).resolve c.subject

/-- A damaged twin is merged into the held copy, which is resolved (R50). -/
def State.mergeHeld (s : State) (r : Fin 8) (h : Held) (c : Copy) (cfg : StreamConfig) : State :=
  (((s.setHeld r none).release c.frame).bumpStream c.slot .merged).resolve
    (mergedSubject (sizeBytes cfg.size) h c)

/-- A copy whose pair repair slot `r` holds (R47 to R50). -/
def State.meetHeld (s : State) (r : Fin 8) (h : Held) (c : Copy) (cfg : StreamConfig) : State :=
  if c.port = h.port then s.dropCopy c .duplicate
  else if c.good.length ≠ h.count then s.twinMismatch r c cfg
  else if c.allGood then s.replaceHeld r h c
  else s.mergeHeld r h c cfg

/-! ### The hold -/

/-- The three conditions for holding a damaged NEW copy (R45). -/
def State.holdTest (s : State) (c : Copy) (st : Stream) : Bool :=
  st.cfg.twinWait != 0#16 && s.linkUp (portOf (otherPort c.port)) && !(st.path (otherPort c.port)).isLost

/-- The lowest-numbered FREE repair slot (R45). -/
def State.freeRepair (s : State) : Option (Fin 8) := allRepair.find? (fun r => (s.held r).isNone)

/-- What a repair slot takes from a copy (R44, R45). -/
def heldCopy (c : Copy) (cfg : StreamConfig) : Held :=
  { slot := c.slot, seq := c.seq, port := c.port, count := c.good.length, good := c.good, frame := c.frame,
    wait := cfg.twinWait }

/-- A damaged NEW copy: held, or resolved at once (R45). -/
def State.holdOrResolve (s : State) (c : Copy) (st : Stream) : State :=
  if s.holdTest c st then
    match s.freeRepair with
    | some r => s.setHeld r (some (heldCopy c st.cfg))
    | none =>
      ((s.bumpGlobal .repairFull).raiseFault
        { kind := .repairFull, port := some (portOf c.port), fieldId := some st.cfg.fieldId,
          seq := some c.seq }).resolve c.subject
  else s.resolve c.subject

/-! ### The classes -/

/-- A forced resync, in the order of R33: history, repair slots, counter, fault, notice, resolution. -/
def State.forceResync (s : State) (c : Copy) (fieldId : Id12) (oldTop : Word16) : State :=
  (((((s.mapStream c.slot Stream.emptyHistory).discardStream c.slot).bumpStream c.slot .resync).raiseFault
    { kind := .streamResync, port := some (portOf c.port), fieldId := some fieldId,
      seq := some c.seq }).raiseNotice (.streamResync c.slot fieldId c.port oldTop c.seq)).resolve c.subject

/-- The stream with its candidate replaced. -/
def Stream.setCandidate (x : Option Candidate) (st : Stream) : Stream := { st with candidate := x }

/-- The top of a history; that of an empty one, for which no copy is LEAP, is not read. -/
def topOf (h : Option History) : Word16 := (h.map (fun h => h.top)).getD 0#16

/-- A LEAP copy: dropped, or the forced resync its step brings (R32, R33, R35). -/
def State.leapCopy (s : State) (c : Copy) (st : Stream) : State :=
  if c.allGood then
    let (cand, forced) := candidateStep st.candidate st.cfg.resyncRun.toNat c.port c.seq
    if forced then s.forceResync c st.cfg.fieldId (topOf st.history)
    else (s.mapStream c.slot (Stream.setCandidate (some cand))).dropCopy c .leap
  else s.dropCopy c .leap

/-- A copy no repair slot holds the pair of: classified, and what follows by Table 2-2 (R26). -/
def State.classifyCopy (s : State) (c : Copy) (st : Stream) : State :=
  match classify st.history st.cfg.jumpLimit.toNat c.seq with
  | .new => if c.allGood then s.resolve c.subject else s.holdOrResolve c st
  | .duplicate => (s.release c.frame).mapStream c.slot (Stream.countDuplicate c.seq c.port)
  | .stale => s.dropCopy c .stale
  | .leap => s.leapCopy c st

/-- A copy after the partition checks: repair-slot lookup, then repair unit or history unit (R43). -/
def State.routeCopy (s : State) (c : Copy) (st : Stream) : State :=
  match s.pairSlot c.slot c.seq with
  | some r =>
    match s.held r with
    | some h => s.meetHeld r h c st.cfg
    | none => s.classifyCopy c st
  | none => s.classifyCopy c st

/-- A copy for an ACTIVE slot: format check, partition checks, routing (R39 to R43). -/
def State.activeCopy (s : State) (p : FPort) (k : Fin 64) (st : Stream) (f : Frame) : State :=
  if formatOk f.bytes st.cfg.size then
    let c : Copy := { port := p, slot := k, seq := frameSeq f.bytes, frame := f,
                      good := goodMap f.bytes (sizeBytes st.cfg.size) (frameCount f.bytes) }
    (s.countChecks c).routeCopy c st
  else
    ((s.release f).bumpStream k .formatMismatch).raiseFault
      { kind := .formatMismatch, port := some (portOf p), fieldId := some (frameId f.bytes),
        seq := some (frameSeq f.bytes) }

/-- The classifier's whole handling of a DATA copy from a field port (R15 to R17, R39). -/
def State.dataCopy (s : State) (p : FPort) (f : Frame) : State :=
  match s.lookup (frameId f.bytes) with
  | none =>
    ((s.release f).bumpGlobal .unknownStream).raiseFault
      { kind := .unknownStream, port := some (portOf p), fieldId := some (frameId f.bytes) }
  | some k =>
    match s.stream k with
    | none => s.release f
    | some st => if st.suspended then (s.release f).bumpStream k .suspendedDrop else s.activeCopy p k st f

end Sys2Proof.Machine
end

