-- ==== Sys2Proof/Machine/Reception.lean ====
section
/-! DEFINITION. The port family of commands: signal, alignment, line-code errors, received symbols, and the
frame-received happening with its dispatch by kind and port (Chapter 6, Tables 6-1 and 6-2). -/

namespace Sys2Proof.Machine

/-! ### Dispatch of a received frame -/

/-- A frame from L is offered to one field command queue (R95). -/
def State.offerCommand (s : State) (p : FPort) (f : Frame) : State :=
  if s.roomFor (.command p) f.cells.length then s.enqueue (.command p) ⟨f, .command⟩
  else s.bumpGlobal (.fieldQueueFull p)

/-- A command queue has room for a frame (R95, R105). -/
def State.commandTakes (s : State) (p : FPort) (f : Frame) : Bool := s.roomFor (.command p) f.cells.length

/-- A frame from L is offered to both field command queues, and dropped when neither takes it (R95). -/
def State.sendToField (s : State) (f : Frame) : State :=
  let s' := (s.offerCommand .f0 f).offerCommand .f1 f
  if s.commandTakes .f0 f || s.commandTakes .f1 f then s' else s'.release f

/-- A pass-through frame is offered to the management lane (R93). -/
def State.passThrough (s : State) (f : Frame) : State :=
  if s.roomFor .lane f.cells.length then s.enqueue .lane ⟨f, .passThrough⟩
  else (s.release f).bumpGlobal .laneFull

/-- A control frame from a field port has come the wrong way (R93). -/
def State.fieldControl (s : State) (p : FPort) (f : Frame) : State :=
  ((s.release f).bumpGlobal .fieldControl).raiseFault { kind := .fieldControl, port := some (portOf p) }

/-- Dispatch of a frame received on F0 or F1 (R93). -/
def State.dispatchField (s : State) (p : FPort) (f : Frame) : Kind → State
  | .data => s.dataCopy p f
  | .command => s.fieldControl p f
  | .mgmtReq => s.fieldControl p f
  | .mgmtRsp => s.passThrough f
  | .mgmtNotice => s.passThrough f

/-- An upward frame arriving from the line is dropped (R94). -/
def State.lineData (s : State) (f : Frame) : State := (s.release f).bumpGlobal .lineData

/-- Dispatch of a frame received on L, a request judged by its station (R94). -/
def State.dispatchLine (s : State) (f : Frame) : Kind → State
  | .data => s.lineData f
  | .mgmtRsp => s.lineData f
  | .mgmtNotice => s.lineData f
  | .command => s.sendToField f
  | .mgmtReq => if frameId f.bytes = s.globals.station then s.consumeRequest f else s.sendToField f

/-- Dispatch by port (Table 6-2). -/
def State.dispatch (s : State) (p : Port) (f : Frame) (k : Kind) : State :=
  match p with
  | .f0 => s.dispatchField .f0 f k
  | .f1 => s.dispatchField .f1 f k
  | .l => s.dispatchLine f k

/-- A frame with a bad header check or an unknown kind (R92). -/
def State.headerError (s : State) (p : Port) (f : Frame) : State :=
  ((s.release f).bumpPort p .headerError).raiseFault { kind := .headerError, port := some p }

/-- A whole frame in hand: header check, kind, dispatch (R92). -/
def State.checkAndDispatch (s : State) (p : Port) (f : Frame) : State :=
  if headerSound f.bytes then
    match frameKind f.bytes with
    | some k => s.dispatch p f k
    | none => s.headerError p f
  else s.headerError p f

/-- The frame-received happening: the reception becomes a frame and FRAMES_RECEIVED counts (R92). -/
def State.receiveFrame (s : State) (p : Port) (r : Reception) : State :=
  ((s.setReception p none).bumpPort p .framesReceived).checkAndDispatch p ⟨r.bytes, r.cells⟩

/-! ### Symbols (Table 6-1) -/

/-- A symbol that is no alignment word breaks the run of an ALIGNING port (R88). -/
def State.breakRun (s : State) (p : Port) : State :=
  match (s.port p).link with
  | .aligning _ reached acked => s.setLink p (.aligning 0 reached acked)
  | .down => s
  | .up _ => s

/-- A symbol's effect by link state: ignored in DOWN, breaking the run in ALIGNING, `f` in UP (Table 6-1). -/
def State.bySymbol (s : State) (p : Port) (f : State → State) : State :=
  match (s.port p).link with
  | .down => s
  | .aligning _ _ _ => s.breakRun p
  | .up _ => f s

/-- A reception begins: one cell is asked for; a refusal is POOL_EMPTY (R90, R91). -/
def State.beginReception (s : State) (p : Port) : State :=
  match s.grantReceiver p with
  | some (cells, s') => s'.setReception p (some ⟨[], cells⟩)
  | none => s.poolEmpty p

/-- A start marker in UP; within a reception it ends the old one first, whose cells return before the new request
(R90, R91). -/
def State.startMarker (s : State) (p : Port) : State := (s.abandonMalformed p).beginReception p

/-- The largest frame (R91). -/
def maxFrame : Nat := 1064

/-- The smallest frame (R91). -/
def minFrame : Nat := 26

/-- The byte that arrives fills no cell already held: byte 65, 129, 193 and so on (R90). -/
def needsCell (received : Nat) : Bool := received != 0 && received % 64 == 0

/-- A data byte stored, with the cells it brought (R90). -/
def storeByte (r : Reception) (b : Byte) (cells : List CellId) : Reception := ⟨r.bytes ++ [b], r.cells ++ cells⟩

/-- A data byte in UP (R90, R91). -/
def State.dataByte (s : State) (p : Port) (b : Byte) : State :=
  match (s.port p).reception with
  | none => s
  | some r =>
    if maxFrame ≤ r.bytes.length then s.abandonMalformed p
    else if needsCell r.bytes.length then
      match s.grantReceiver p with
      | some (cells, s') => s'.setReception p (some (storeByte r b cells))
      | none => s.abandonPoolEmpty p
    else s.setReception p (some (storeByte r b []))

/-- An end marker in UP (R91, R92). -/
def State.endMarker (s : State) (p : Port) : State :=
  match (s.port p).reception with
  | none => s
  | some r => if r.bytes.length < minFrame then s.abandonMalformed p else s.receiveFrame p r

/-- An alignment word, with the acknowledgment mark or without (R88, Table 6-1). -/
def State.alignmentWord (s : State) (p : Port) (ack : Bool) : State :=
  match (s.port p).link with
  | .down => s
  | .aligning run reached acked =>
    let reached := reached || decide (4 ≤ run + 1)
    let acked := acked || ack
    if reached && acked then s.linkComesUp p else s.setLink p (.aligning (run + 1) reached acked)
  | .up _ => s.abandonMalformed p

/-- The time of a line-code error in periods of 40 ns since the reset (R89; log 12). -/
def State.errorTime (s : State) (sub : Nat) : Nat := s.uptime * periodsPerMs + sub

/-- The kept error times after an error at `now`: those not more than 1 ms old, and the new one (R89). -/
def keepErrors (errors : List Nat) (now : Nat) : List Nat :=
  errors.filter (fun t => decide (now ≤ t + periodsPerMs)) ++ [now]

/-- The count of kept errors that brings the link DOWN (R89). -/
def errorLimit : Nat := 16

/-- A line-code error: it ends a reception as MALFORMED and may bring a loss of link (R89, R91; log 13). -/
def State.lineError (s : State) (p : Port) (sub : Nat) : State :=
  match (s.port p).link with
  | .down => s
  | .aligning _ _ _ => s.breakRun p
  | .up errors =>
    let kept := keepErrors errors (s.errorTime sub)
    let s' := (s.abandonMalformed p).setLink p (.up kept)
    if errorLimit ≤ kept.length then s'.linkLoss p else s'

/-- The alignment timer runs out in ALIGNING: DOWN, and a present signal is detected again (R87, R88). -/
def State.alignmentTimeout (s : State) (p : Port) : State :=
  match (s.port p).link with
  | .aligning _ _ _ => (s.setLink p .down).detect p
  | .down => s
  | .up _ => s

/-- The signal is lost: an ALIGNING port goes DOWN, an UP port loses its link (R88, R89). -/
def State.loseSignal (s : State) (p : Port) : State :=
  match (s.port p).link with
  | .down => s
  | .aligning _ _ _ => s.setLink p .down
  | .up _ => s.linkLoss p

/-! ### The commands -/

/-- SIGNAL_DETECTED: the signal is present, and a DOWN port of the running part goes to ALIGNING (R87; log 25). -/
def execSignalDetected (p : Port) (s : State) : Host.Outcome State Fault Refusal :=
  .next (whenRunning (fun s => s.detect p) (s.setSignal p true))

/-- SIGNAL_LOST (R88, R89; log 25). -/
def execSignalLost (p : Port) (s : State) : Host.Outcome State Fault Refusal :=
  .next (whenRunning (fun s => s.loseSignal p) (s.setSignal p false))

/-- ALIGNMENT_WORD_RECEIVED (R88, R91, Table 6-1). -/
def execAlignmentWordReceived (p : Port) (ack : Bool) (s : State) : Host.Outcome State Fault Refusal :=
  .next (whenRunning (fun s => s.alignmentWord p ack) s)

/-- ALIGNMENT_TIMER_RUN_OUT (R88). -/
def execAlignmentTimerRunOut (p : Port) (s : State) : Host.Outcome State Fault Refusal :=
  .next (whenRunning (fun s => s.alignmentTimeout p) s)

/-- LINE_CODE_ERROR (R89, R91). -/
def execLineCodeError (p : Port) (sub : Nat) (s : State) : Host.Outcome State Fault Refusal :=
  .next (whenRunning (fun s => s.lineError p sub) s)

/-- START_MARKER_RECEIVED (R90, R91). -/
def execStartMarkerReceived (p : Port) (s : State) : Host.Outcome State Fault Refusal :=
  .next (whenRunning (fun s => s.bySymbol p (fun s => s.startMarker p)) s)

/-- DATA_BYTE_RECEIVED (R90, R91). -/
def execDataByteReceived (p : Port) (b : Byte) (s : State) : Host.Outcome State Fault Refusal :=
  .next (whenRunning (fun s => s.bySymbol p (fun s => s.dataByte p b)) s)

/-- ABORT_MARKER_RECEIVED (R91). -/
def execAbortMarkerReceived (p : Port) (s : State) : Host.Outcome State Fault Refusal :=
  .next (whenRunning (fun s => s.bySymbol p (fun s => s.abandonMalformed p)) s)

/-- FRAME_RECEIVED: the end marker (R91, R92 and Table 6-2). -/
def execFrameReceived (p : Port) (s : State) : Host.Outcome State Fault Refusal :=
  .next (whenRunning (fun s => s.bySymbol p (fun s => s.endMarker p)) s)

end Sys2Proof.Machine
end

