-- ==== Sys2Proof/Machine/Power.lean ====
section
/-! DEFINITION. The power and reset family of commands (R135, R168, R172, R180). -/

namespace Sys2Proof.Machine

/-- How long RSTn must be low to be taken, in nanoseconds (R180). -/
def resetPulse : Nat := 1000

/-- Power rises: a save or seal in progress is ended, the reset is taken and the load begins; with RSTn low the part
is held instead until RSTn returns high (R168, R172; log 8). -/
def State.powerUp (s : State) : State :=
  if s.rstnLow then s.interrupt.cleared .held else s.interrupt.takeReset

/-- Power fails: a save or seal in progress is ended, every other state but the banks is lost (R172; log 11). -/
def State.powerDown (s : State) : State := s.interrupt.cleared .off

/-- RSTn has been low for 1 µs: a save or seal in progress is ended and the part is held in its reset state; without
power only the pin is noted (R168). -/
def State.assertReset (s : State) : State :=
  if s.phase = .off then { s with rstnLow := true } else { s.interrupt.cleared .held with rstnLow := true }

/-- RSTn returns high after `lowNs` nanoseconds: a pin reset is taken when the pulse was long enough; a shorter one is
filtered (R168, R180; log 8). -/
def State.releaseReset (s : State) (lowNs : Nat) : State :=
  if s.phase = .off then { s with rstnLow := false }
  else if s.rstnLow ∨ resetPulse ≤ lowNs then { s.interrupt with rstnLow := false }.takeReset
  else s

/-- The start-up load ends (R168). -/
def State.loadEnds (s : State) : State := if s.phase = .loading then s.endLoad.settle else s

/-- A FULL reset is pending and its response no longer waits in the lane (R135; log 7). -/
def State.fullResetDue (s : State) : Bool := s.agent.fullPending && !s.lane.any isResetResponse

/-- The pending FULL reset is taken (R135; log 7). -/
def State.takeFullReset (s : State) : State := if s.fullResetDue then s.takeReset else s

/-- POWER_ON (R168). -/
def execPowerOn (s : State) : Host.Outcome State Fault Refusal := .next s.powerUp

/-- POWER_LOSS (R172). -/
def execPowerLoss (s : State) : Host.Outcome State Fault Refusal := .next s.powerDown

/-- RSTN_ASSERTED (R168). -/
def execRstnAsserted (s : State) : Host.Outcome State Fault Refusal := .next s.assertReset

/-- PIN_RESET (R180). -/
def execPinReset (lowNs : Nat) (s : State) : Host.Outcome State Fault Refusal := .next (s.releaseReset lowNs)

/-- START_UP_LOAD_END (R168). -/
def execStartUpLoadEnd (s : State) : Host.Outcome State Fault Refusal := .next s.loadEnds

/-- FULL_RESET (R135). -/
def execFullReset (s : State) : Host.Outcome State Fault Refusal :=
  .next (whenRunning (fun s => s.takeFullReset) s)

end Sys2Proof.Machine
end

