-- ==== Sys2Proof/Machine/Timers.lean ====
section
/-! DEFINITION. The timer family of commands: wait, path, interval and lease timers and the time base (R51, R66,
R78, R124, R154). Which timers run, and with which durations, is state; when they run out is the sender's (log 3). -/

namespace Sys2Proof.Machine

/-- The duration of the running path timer of slot `k` on `p`: the slot is ACTIVE and its path UP (R75, R83). -/
def State.runningPathTimer (s : State) (k : Fin 64) (p : FPort) : Option (Stream × Byte) :=
  match s.activeStream k with
  | some st =>
    match st.path p with
    | .up (some d) => some (st, d)
    | .up none => none
    | .fresh => none
    | .lost _ => none
  | none => none

/-- A path timer runs out: LOST at the count, PATH_LOST raised (R78, R85). -/
def State.pathTimeout (s : State) (k : Fin 64) (p : FPort) : State :=
  match s.runningPathTimer k p with
  | some (st, d) =>
    (s.mapStream k (Stream.setPath p (.lost s.count))).raiseNotice (.pathLost k st.cfg.fieldId p d s.count)
  | none => s

/-- A stream at the run-out of its interval timer: credits full, timer started afresh (R66). -/
def Stream.refill (st : Stream) : Stream :=
  { st with credits := st.cfg.burst, intervalTimer := some st.cfg.interval }

/-- The interval timer of slot `k` runs out, if it runs (R66). -/
def State.intervalTimeout (s : State) (k : Fin 64) : State :=
  if (s.activeStream k).any (fun st => st.intervalTimer.isSome) then s.mapStream k Stream.refill else s

/-- The holder whose lease timer is running (R124). -/
def State.runningLease (s : State) : Option Word16 :=
  match s.agent.lease with
  | some l => if l.timer.isSome then some l.holder else none
  | none => none

/-- The lease timer runs out: the lease ends, SESSION_EXPIRED names its holder (R124). -/
def State.leaseTimeout (s : State) : State :=
  match s.runningLease with
  | some m => s.endLease.raiseNotice (.sessionExpired m)
  | none => s

/-- The time base counts from the moment a reset is taken, through the load (R154). -/
def State.tick (s : State) : State :=
  if s.phase = .loading ∨ s.phase = .running then { s with count := s.count + 1, uptime := s.uptime + 1 } else s

/-- WAIT_TIMER_RUN_OUT (R51). -/
def execWaitTimerRunOut (r : Fin 8) (s : State) : Host.Outcome State Fault Refusal :=
  .next (whenRunning (fun s => s.resolveHeld r true) s)

/-- PATH_TIMER_RUN_OUT (R78). -/
def execPathTimerRunOut (k : Fin 64) (p : FPort) (s : State) : Host.Outcome State Fault Refusal :=
  .next (whenRunning (fun s => s.pathTimeout k p) s)

/-- INTERVAL_TIMER_RUN_OUT (R66). -/
def execIntervalTimerRunOut (k : Fin 64) (s : State) : Host.Outcome State Fault Refusal :=
  .next (whenRunning (fun s => s.intervalTimeout k) s)

/-- LEASE_TIMER_RUN_OUT (R124). -/
def execLeaseTimerRunOut (s : State) : Host.Outcome State Fault Refusal :=
  .next (whenRunning (fun s => s.leaseTimeout) s)

/-- MILLISECOND_COUNT_TICK (R154). -/
def execMillisecondCountTick (s : State) : Host.Outcome State Fault Refusal := .next s.tick

end Sys2Proof.Machine
end

