-- ==== Sys2Proof/Machine/Egress.lean ====
section
/-! DEFINITION. The egress family of commands and the agent's turn (R96, R109, R112, R114, R119, R135). -/

namespace Sys2Proof.Machine

/-- The end marker is sent: the hold is released, FRAMES_SENT counts, the transmitter is idle (R96). -/
def State.finishTx (s : State) (p : Port) (f : Frame) : State :=
  ((s.closeTx p .endMarker).releaseTx p f).bumpPort p .framesSent

/-- A transmission ends. That of the OK response of a pending FULL reset takes the reset (R114, R135). -/
def State.endTx (s : State) (p : Port) : State :=
  match (s.port p).tx with
  | some x => if isResetResponse x && s.agent.fullPending then s.takeReset else s.finishTx p x.frame
  | none => s

/-- The turn ends: the agent is idle and takes the oldest waiting request, if any (R119). -/
def State.endTurn (s : State) : State :=
  if s.agent.busy then (s.setAgent { s.agent with busy := false }).runAgent else s

/-- TRANSMISSION_START: the arbiter's grant on L, the command queue on a field port (R96, R112). -/
def execTransmissionStart (p : Port) (s : State) : Host.Outcome State Fault Refusal :=
  .next (whenRunning (fun s => s.startTx p) s)

/-- TRANSMISSION_END (R96, R114). -/
def execTransmissionEnd (p : Port) (s : State) : Host.Outcome State Fault Refusal :=
  .next (whenRunning (fun s => s.endTx p) s)

/-- NOTICE_OFFER (R109, R162). -/
def execNoticeOffer (s : State) : Host.Outcome State Fault Refusal :=
  .next (whenRunning (fun s => s.feedNotices) s)

/-- AGENT_TURN_END (R119). -/
def execAgentTurnEnd (s : State) : Host.Outcome State Fault Refusal :=
  .next (whenRunning (fun s => s.endTurn) s)

end Sys2Proof.Machine
end

