-- ==== Sys2Proof/Machine/Requests.lean ====
section
/-! DEFINITION. The request family of commands: one meaning for each request of Table 12-3, over the take of
Chapter 8 (R119 to R135). -/

namespace Sys2Proof.Machine

/-- RESET_PART's kinds (Table 12-2). -/
def trafficKind : Byte := 1#8

/-- RESET_PART's kinds (Table 12-2). -/
def fullKind : Byte := 2#8

/-- BAD_FRAME (R120). -/
def execBadFrame (bytes : List Byte) (s : State) : Host.Outcome State Fault Refusal :=
  .next (whenRunning (fun s => s.agentFrame bytes) s)

/-- UNKNOWN_REQUEST (R120); the code is read as a payload's code byte is (R177). -/
def execUnknownRequest (m t : Word16) (code : Byte) (s : State) : Host.Outcome State Fault Refusal :=
  .next (whenRunning (fun s => s.agentRequest m t (requestOfPayload (be16 m ++ [code]))) s)

/-- IDENTIFY (R128). -/
def execIdentify (m t : Word16) (s : State) : Host.Outcome State Fault Refusal :=
  .next (whenRunning (fun s => s.agentRequest m t .identify) s)

/-- OPEN_SESSION (R123). -/
def execOpenSession (m t : Word16) (s : State) : Host.Outcome State Fault Refusal :=
  .next (whenRunning (fun s => s.agentRequest m t .openSession) s)

/-- CLOSE_SESSION (R126). -/
def execCloseSession (m t : Word16) (s : State) : Host.Outcome State Fault Refusal :=
  .next (whenRunning (fun s => s.agentRequest m t .closeSession) s)

/-- READ_ENTRY (R20, R129). -/
def execReadEntry (m t : Word16) (slot : Byte) (s : State) : Host.Outcome State Fault Refusal :=
  .next (whenRunning (fun s => s.agentRequest m t (.readEntry slot)) s)

/-- READ_STREAM_COUNTERS (R129). -/
def execReadStreamCounters (m t : Word16) (slot clear : Byte) (s : State) : Host.Outcome State Fault Refusal :=
  .next (whenRunning (fun s => s.agentRequest m t (.readStreamCounters slot clear)) s)

/-- READ_PORT_COUNTERS (R130). -/
def execReadPortCounters (m t : Word16) (clear page : Byte) (s : State) : Host.Outcome State Fault Refusal :=
  .next (whenRunning (fun s => s.agentRequest m t (.readPortCounters clear page)) s)

/-- READ_FAULTS (R131). -/
def execReadFaults (m t : Word16) (maximum : Byte) (s : State) : Host.Outcome State Fault Refusal :=
  .next (whenRunning (fun s => s.agentRequest m t (.readFaults maximum)) s)

/-- STAGE_ENTRY (R138). -/
def execStageEntry (m t : Word16) (slot action cfgPresent : Byte) (rec : EntryRecord) (s : State) :
    Host.Outcome State Fault Refusal :=
  .next (whenRunning (fun s => s.agentRequest m t (.stageEntry slot action cfgPresent rec)) s)

/-- STAGE_GLOBALS (R139). -/
def execStageGlobals (m t : Word16) (rec : GlobalsRecord) (s : State) : Host.Outcome State Fault Refusal :=
  .next (whenRunning (fun s => s.agentRequest m t (.stageGlobals rec)) s)

/-- READ_STAGING (R132). -/
def execReadStaging (m t : Word16) (first : Byte) (s : State) : Host.Outcome State Fault Refusal :=
  .next (whenRunning (fun s => s.agentRequest m t (.readStaging first)) s)

/-- DISCARD_STAGING (R132). -/
def execDiscardStaging (m t : Word16) (s : State) : Host.Outcome State Fault Refusal :=
  .next (whenRunning (fun s => s.agentRequest m t .discardStaging) s)

/-- COMMIT (R141). -/
def execCommit (m t : Word16) (s : State) : Host.Outcome State Fault Refusal :=
  .next (whenRunning (fun s => s.agentRequest m t .commit) s)

/-- SAVE_IMAGE (R170). -/
def execSaveImage (m t : Word16) (s : State) : Host.Outcome State Fault Refusal :=
  .next (whenRunning (fun s => s.agentRequest m t .saveImage) s)

/-- SEAL_IMAGE (R173). -/
def execSealImage (m t : Word16) (s : State) : Host.Outcome State Fault Refusal :=
  .next (whenRunning (fun s => s.agentRequest m t .sealImage) s)

/-- RESET_PART TRAFFIC (R134). -/
def execResetPartTraffic (m t : Word16) (s : State) : Host.Outcome State Fault Refusal :=
  .next (whenRunning (fun s => s.agentRequest m t (.resetPart trafficKind)) s)

/-- RESET_PART FULL (R135). -/
def execResetPartFull (m t : Word16) (s : State) : Host.Outcome State Fault Refusal :=
  .next (whenRunning (fun s => s.agentRequest m t (.resetPart fullKind)) s)

end Sys2Proof.Machine
end

