-- ==== Sys2Proof/Machine/ImageOps.lean ====
section
/-! DEFINITION. The long operations' ends: the commit end, the phases of a save or seal and their read backs
(R122, R144, R145, R171, R173, R174). -/

namespace Sys2Proof.Machine

/-- The commit in progress ends (R144, R145, R152). -/
def State.commitEnds (s : State) : State :=
  match s.op with
  | .commit records m => s.endCommit records m
  | .idle => s
  | .save _ => s
  | .seal _ => s

/-- The job of the save or seal in progress. -/
def Operation.job? : Operation → Option BankJob
  | .save j => some j
  | .seal j => some j
  | .idle => none
  | .commit _ _ => none

/-- The operation with its job replaced. -/
def Operation.withJob (op : Operation) (j : BankJob) : Operation :=
  match op with
  | .save _ => .save j
  | .seal _ => .seal j
  | .idle => .idle
  | .commit records m => .commit records m

/-- A bank replaced (R165). -/
def State.setBank (s : State) (bk : BankId) (m : Memory) : State := { s with banks := s.banks.set bk m }

/-- The erase phase ends: the target is erased, the write phase begins (R171, R173). -/
def State.eraseEnds (s : State) : State :=
  match s.op.job? with
  | some j =>
    if j.phase = .erase then { s.setBank j.target [] with op := s.op.withJob { j with phase := .write } } else s
  | none => s

/-- The write phase ends: content and check word stand in the target, the read back begins (R166, R171, R173). -/
def State.writeEnds (s : State) : State :=
  match s.op.job? with
  | some j =>
    if j.phase = .write then
      { s.setBank j.target (Memory.ofBytes j.bytes) with op := s.op.withJob { j with phase := .readBack } }
    else s
  | none => s

/-- The target as the read back reads it (R171; log 15). -/
def State.asRead (s : State) (j : BankJob) (misread : List (Nat × Byte)) : Memory :=
  (s.banks.get j.target).patch misread

/-- The read back passes: every byte as meant, and the check word agrees (R171). -/
def readBackOk (j : BankJob) (m : Memory) : Bool := (m.bytes == j.bytes) && checkAgrees m.bytes

/-- The target after a read back that read it as `m`: as read when the read back passes, else bad (R171, step 1). -/
def State.bankAfter (s : State) (j : BankJob) (m : Memory) : Memory :=
  if readBackOk j m then m else failedBank s.freeIx m

/-- The bank and fault effects of a read back that read the target as `m`: a failed one raises SAVE_FAILED (R171, step 1;
R174). -/
def State.settleBank (s : State) (j : BankJob) (m : Memory) : State :=
  let s' := s.setBank j.target (s.bankAfter j m)
  if readBackOk j m then s'
  else ({ s' with freeIx := s.freeIx + 1 }).raiseFault { kind := .saveFailed, seq := some (bankNumber j.target) }

/-- The image state derived afresh from both banks (R171, step 2). -/
def State.deriveImage (s : State) : State := { s with imageState := imageStateOf s.banks }

/-- The four effects of a read back's end, in order (R171, R174); `notice` builds SAVE_DONE or SEAL_DONE. -/
def State.readBackEnds (s : State) (j : BankJob) (misread : List (Nat × Byte))
    (notice : Bool → ImageState → NoticeBody) : State :=
  let m := s.asRead j misread
  let s' := (s.settleBank j m).deriveImage
  (s'.raiseNotice (notice (readBackOk j m) s'.imageState)).endOperation

/-- The save in progress ends, if it is in its read back (R171). -/
def State.saveEnds (s : State) (misread : List (Nat × Byte)) : State :=
  match s.op with
  | .save j =>
    if j.phase = .readBack then
      s.readBackEnds j misread (fun ok i => .saveDone ok j.target j.saveCount i j.manager)
    else s
  | .idle => s
  | .commit _ _ => s
  | .seal _ => s

/-- The seal in progress ends, if it is in its read back (R174). -/
def State.sealEnds (s : State) (misread : List (Nat × Byte)) : State :=
  match s.op with
  | .seal j =>
    if j.phase = .readBack then
      s.readBackEnds j misread (fun ok i => .sealDone ok j.target j.saveCount i j.manager)
    else s
  | .idle => s
  | .commit _ _ => s
  | .save _ => s

/-- The first address of a read back that no bank has (R179; log 23). -/
def badAddress (misread : List (Nat × Byte)) : Option Nat :=
  (misread.find? (fun c => decide (bankSize ≤ c.1))).map (fun c => c.1)

/-- COMMIT_END (R144, R145). -/
def execCommitEnd (s : State) : Host.Outcome State Fault Refusal :=
  .next (whenRunning (fun s => s.commitEnds) s)

/-- BANK_ERASE_END (R171). -/
def execBankEraseEnd (s : State) : Host.Outcome State Fault Refusal :=
  .next (whenRunning (fun s => s.eraseEnds) s)

/-- BANK_WRITE_END (R171). -/
def execBankWriteEnd (s : State) : Host.Outcome State Fault Refusal :=
  .next (whenRunning (fun s => s.writeEnds) s)

/-- SAVE_END (R171); an operand that names a byte no bank has faults (log 23). -/
def execSaveEnd (misread : List (Nat × Byte)) (s : State) : Host.Outcome State Fault Refusal :=
  match badAddress misread with
  | some a => .fault (.noSuchBankByte a)
  | none => .next (whenRunning (fun s => s.saveEnds misread) s)

/-- SEAL_END (R174); an operand that names a byte no bank has faults (log 23). -/
def execSealEnd (misread : List (Nat × Byte)) (s : State) : Host.Outcome State Fault Refusal :=
  match badAddress misread with
  | some a => .fault (.noSuchBankByte a)
  | none => .next (whenRunning (fun s => s.sealEnds misread) s)

end Sys2Proof.Machine
end

