-- ==== Sys2Proof/Machine/Dispatch.lean ====
section
/-! DEFINITION. One arm for each command of the table, each a direct call of its meaning. -/

namespace Sys2Proof.Machine

/-- The effect of a command on everything but the queue of waiting commands. -/
def exec (i : Instr) (s : State) : Host.Outcome State Fault Refusal :=
  match i with
  | .powerOn => Sys2Proof.Machine.execPowerOn s
  | .powerLoss => Sys2Proof.Machine.execPowerLoss s
  | .rstnAsserted => Sys2Proof.Machine.execRstnAsserted s
  | .pinReset lowNs => Sys2Proof.Machine.execPinReset lowNs s
  | .startUpLoadEnd => Sys2Proof.Machine.execStartUpLoadEnd s
  | .signalDetected p => Sys2Proof.Machine.execSignalDetected p s
  | .signalLost p => Sys2Proof.Machine.execSignalLost p s
  | .alignmentWordReceived p ack => Sys2Proof.Machine.execAlignmentWordReceived p ack s
  | .alignmentTimerRunOut p => Sys2Proof.Machine.execAlignmentTimerRunOut p s
  | .lineCodeError p sub => Sys2Proof.Machine.execLineCodeError p sub s
  | .startMarkerReceived p => Sys2Proof.Machine.execStartMarkerReceived p s
  | .dataByteReceived p b => Sys2Proof.Machine.execDataByteReceived p b s
  | .abortMarkerReceived p => Sys2Proof.Machine.execAbortMarkerReceived p s
  | .frameReceived p => Sys2Proof.Machine.execFrameReceived p s
  | .waitTimerRunOut r => Sys2Proof.Machine.execWaitTimerRunOut r s
  | .pathTimerRunOut k p => Sys2Proof.Machine.execPathTimerRunOut k p s
  | .intervalTimerRunOut k => Sys2Proof.Machine.execIntervalTimerRunOut k s
  | .transmissionStart p => Sys2Proof.Machine.execTransmissionStart p s
  | .transmissionEnd p => Sys2Proof.Machine.execTransmissionEnd p s
  | .noticeOffer => Sys2Proof.Machine.execNoticeOffer s
  | .agentTurnEnd => Sys2Proof.Machine.execAgentTurnEnd s
  | .badFrame bytes => Sys2Proof.Machine.execBadFrame bytes s
  | .unknownRequest m t code => Sys2Proof.Machine.execUnknownRequest m t code s
  | .identify m t => Sys2Proof.Machine.execIdentify m t s
  | .openSession m t => Sys2Proof.Machine.execOpenSession m t s
  | .closeSession m t => Sys2Proof.Machine.execCloseSession m t s
  | .readEntry m t slot => Sys2Proof.Machine.execReadEntry m t slot s
  | .readStreamCounters m t slot clear => Sys2Proof.Machine.execReadStreamCounters m t slot clear s
  | .readPortCounters m t clear page => Sys2Proof.Machine.execReadPortCounters m t clear page s
  | .readFaults m t maximum => Sys2Proof.Machine.execReadFaults m t maximum s
  | .stageEntry m t slot action cfgPresent rec => Sys2Proof.Machine.execStageEntry m t slot action cfgPresent rec s
  | .stageGlobals m t rec => Sys2Proof.Machine.execStageGlobals m t rec s
  | .readStaging m t first => Sys2Proof.Machine.execReadStaging m t first s
  | .discardStaging m t => Sys2Proof.Machine.execDiscardStaging m t s
  | .commit m t => Sys2Proof.Machine.execCommit m t s
  | .saveImage m t => Sys2Proof.Machine.execSaveImage m t s
  | .sealImage m t => Sys2Proof.Machine.execSealImage m t s
  | .resetPartTraffic m t => Sys2Proof.Machine.execResetPartTraffic m t s
  | .resetPartFull m t => Sys2Proof.Machine.execResetPartFull m t s
  | .fullReset => Sys2Proof.Machine.execFullReset s
  | .commitEnd => Sys2Proof.Machine.execCommitEnd s
  | .leaseTimerRunOut => Sys2Proof.Machine.execLeaseTimerRunOut s
  | .bankEraseEnd => Sys2Proof.Machine.execBankEraseEnd s
  | .bankWriteEnd => Sys2Proof.Machine.execBankWriteEnd s
  | .saveEnd misread => Sys2Proof.Machine.execSaveEnd misread s
  | .sealEnd misread => Sys2Proof.Machine.execSealEnd misread s
  | .millisecondCountTick => Sys2Proof.Machine.execMillisecondCountTick s

end Sys2Proof.Machine
end

