-- ==== Sys2Proof/Safety.lean ====
section
/-! DEFINITION. What counts as a safe run, in the terms the statements use: commands that answer, what may
happen at once after a happening, and the invariants of the part. -/

namespace Sys2Proof.Machine

/-! ### Answers -/

/-- A command answers a next state of which `P` holds. -/
def Answers (c : Instr) (s : State) (P : State → Prop) : Prop := ∃ t, exec c s = .next t ∧ P t

/-- A command's effect is `u`, and then follows what the part does at once (R96, R109, R112). -/
def Settles (c : Instr) (s u : State) : Prop := exec c s = .next u.settle

/-- The state `t` is `u` but for what the arbiter, the transmitters and the notice feed do at once: frames in
queues and in transmission, free cells, and the notice queue with its serial and lost count (R96, R109, R112). -/
def EgressOnly (u t : State) : Prop :=
  t = { u with
    ports := t.ports, free := t.free, lane := t.lane, classes := t.classes, command := t.command,
    serial := t.serial, notices := t.notices, noticesLost := t.noticesLost } ∧
  ∀ p, t.port p = { u.port p with tx := (t.port p).tx }

/-- A frame is on its way up: in the management lane, or in transmission on L. -/
def OnItsWay (t : State) (x : Queued) : Prop := x ∈ t.lane ∨ (t.port .l).tx = some x

/-- A response with a payload is on its way to the manager under a tag (R108, R117). -/
def Responded (s t : State) (tag : Word16) (payload : List Byte) : Prop :=
  ∃ x, OnItsWay t x ∧ x.frame.bytes = mgmtFrame .mgmtRsp s.globals.station tag payload

/-- The agent takes a request of manager `m` under tag `t` at once and can place any response: it is idle, no
request waits, no FULL reset is pending, no cached response repeats, lane and pool have room for 3 cells (R107,
R108, R119, R121). -/
structure TakesAtOnce (s : State) (m t : Word16) : Prop where
  running : s.phase = .running
  idle : s.agent.busy = false
  noReset : s.agent.fullPending = false
  empty : s.agent.requests = []
  fresh : s.cachedFor m t = none
  room : cellCount s.lane + 3 ≤ 16
  cells : 3 ≤ s.free.length

/-- The agent takes a request at once: it is idle, no request waits, no FULL reset is pending (R119). -/
structure AgentIdle (s : State) : Prop where
  running : s.phase = .running
  idle : s.agent.busy = false
  noReset : s.agent.fullPending = false
  empty : s.agent.requests = []

/-- What a request may leave changed besides its effect: the egress fields and the agent's turn, lease timer and
cache (R119 to R121). -/
def AgentOnly (u t : State) : Prop :=
  EgressOnly { u with agent := t.agent } t ∧ t.agent.busy = true ∧ t.agent.requests = u.agent.requests ∧
    t.agent.fullPending = u.agent.fullPending ∧
    t.agent.lease.map (fun l => l.holder) = u.agent.lease.map (fun l => l.holder)

/-- The lease once the agent has begun the take of a request of manager `m`: the holder's timer, when it runs, restarts
with its full duration (R120, R124). -/
def State.leaseTouched (s : State) (m : Word16) : Option Lease :=
  s.agent.lease.map (fun l => ⟨l.holder, if l.holder = m then l.timer.map (fun _ => s.globals.leaseTimeout) else l.timer⟩)

/-- A request row of manager `m` under tag `t` is answered with a cacheable payload and does nothing else: its response, in free
cells, joins the tail of the lane, the agent's turn begins, the holder's timer and cache take it, and then follows what the part
does at once (R108, R119 to R121). -/
def OnlyAnswered (c : Instr) (s : State) (m t : Word16) (payload : List Byte) : Prop :=
  ∃ cells free : List CellId, (cells ++ free).Perm s.free ∧
    cells.length = (8 + 34 * max 1 ((payload.length + 31) / 32) + 63) / 64 ∧
    Settles c s { s with
      free := free
      lane := s.lane ++ [⟨⟨mgmtFrame .mgmtRsp s.globals.station t payload, cells⟩, .response false⟩]
      agent := { s.agent with
        busy := true, lease := s.leaseTouched m
        cache := if s.holds m = true then some ⟨t, payload⟩ else s.agent.cache } }

/-! ### The request rows -/

/-- A request row with the request it brings, for manager `m` under tag `t` (Table 8-3). -/
inductive Asks (m t : Word16) : Instr → Request → Prop where
  | unknownRequest (code : Byte) (h : 15 < code.toNat ∨ code = 0#8) : Asks m t (.unknownRequest m t code) (.unknown code)
  | identify : Asks m t (.identify m t) .identify
  | openSession : Asks m t (.openSession m t) .openSession
  | closeSession : Asks m t (.closeSession m t) .closeSession
  | readEntry (slot : Byte) : Asks m t (.readEntry m t slot) (.readEntry slot)
  | readStreamCounters (slot clear : Byte) : Asks m t (.readStreamCounters m t slot clear) (.readStreamCounters slot clear)
  | readPortCounters (clear page : Byte) : Asks m t (.readPortCounters m t clear page) (.readPortCounters clear page)
  | readFaults (n : Byte) : Asks m t (.readFaults m t n) (.readFaults n)
  | stageEntry (slot action present : Byte) (rec : EntryRecord) :
    Asks m t (.stageEntry m t slot action present rec) (.stageEntry slot action present rec)
  | stageGlobals (rec : GlobalsRecord) : Asks m t (.stageGlobals m t rec) (.stageGlobals rec)
  | readStaging (first : Byte) : Asks m t (.readStaging m t first) (.readStaging first)
  | discardStaging : Asks m t (.discardStaging m t) .discardStaging
  | commit : Asks m t (.commit m t) .commit
  | saveImage : Asks m t (.saveImage m t) .saveImage
  | sealImage : Asks m t (.sealImage m t) .sealImage
  | resetPartTraffic : Asks m t (.resetPartTraffic m t) (.resetPart 1#8)
  | resetPartFull : Asks m t (.resetPartFull m t) (.resetPart 2#8)

/-- The request rows that change state and so need the lease, each with its request code (R127, Table 12-2). -/
inductive NeedsLease (m t : Word16) : Instr → Byte → Prop where
  | readStreamCounters (slot clear : Byte) (h : clear ≠ 0#8) : NeedsLease m t (.readStreamCounters m t slot clear) 5#8
  | readPortCounters (clear page : Byte) (h : clear ≠ 0#8) : NeedsLease m t (.readPortCounters m t clear page) 6#8
  | readFaults (n : Byte) : NeedsLease m t (.readFaults m t n) 7#8
  | stageEntry (slot action present : Byte) (rec : EntryRecord) :
    NeedsLease m t (.stageEntry m t slot action present rec) 8#8
  | stageGlobals (rec : GlobalsRecord) : NeedsLease m t (.stageGlobals m t rec) 9#8
  | discardStaging : NeedsLease m t (.discardStaging m t) 11#8
  | commit : NeedsLease m t (.commit m t) 12#8
  | saveImage : NeedsLease m t (.saveImage m t) 13#8
  | sealImage : NeedsLease m t (.sealImage m t) 14#8
  | resetPartTraffic : NeedsLease m t (.resetPartTraffic m t) 15#8
  | resetPartFull : NeedsLease m t (.resetPartFull m t) 15#8

/-! ### Where a happening falls -/

/-- A reception in progress on an UP port of the running part. -/
structure Receiving (s : State) (p : Port) (r : Reception) : Prop where
  running : s.phase = .running
  up : s.linkUp p = true
  reception : (s.port p).reception = some r

/-- An end marker finds a whole frame with a sound header and a known kind (R91, R92). -/
structure FrameEnds (s : State) (p : Port) (r : Reception) (kind : Kind) : Prop extends Receiving s p r where
  long : 26 ≤ r.bytes.length
  sound : headerSound r.bytes = true
  kind : frameKind r.bytes = some kind

/-- The state once the reception on `p` has become a frame and FRAMES_RECEIVED has counted (R92). -/
def State.frameTaken (s : State) (p : Port) : State :=
  (s.setPort p { s.port p with reception := none }).bumpPort p .framesReceived

/-- The slot a field stream id finds, and no other (R3, R15). -/
structure FoundSlot (s : State) (id : Id12) (k : Fin 64) (st : Stream) : Prop where
  held : s.stream k = some st
  named : st.cfg.fieldId = id
  only : ∀ j st', s.stream j = some st' → st'.cfg.fieldId = id → j = k

/-- The copy that a received DATA frame of an ACTIVE slot makes (R39, R42). -/
def copyOf (p : FPort) (k : Fin 64) (st : Stream) (r : Reception) : Copy :=
  { port := p, slot := k, seq := frameSeq r.bytes, frame := ⟨r.bytes, r.cells⟩,
    good := goodMap r.bytes (sizeBytes st.cfg.size) (frameCount r.bytes) }

/-- A DATA copy ends on field port `p` for the ACTIVE slot `k` and passes the format check (R39, R40). -/
structure CopyEnds (s : State) (p : FPort) (k : Fin 64) (st : Stream) (r : Reception) : Prop extends
    FrameEnds s (portOf p) r .data where
  found : FoundSlot s (frameId r.bytes) k st
  active : st.suspended = false
  format : formatOk r.bytes st.cfg.size = true

/-- The state once such a copy has been counted GOOD or DAMAGED and, when all-good, taken as evidence (R42, R77). -/
def State.copyChecked (s : State) (p : FPort) (k : Fin 64) (st : Stream) (r : Reception) : State :=
  (s.frameTaken (portOf p)).countChecks (copyOf p k st r)

/-- No repair slot holds the pair (R43). -/
def NotPending (s : State) (k : Fin 64) (seq : Word16) : Prop :=
  ∀ q h, s.held q = some h → ¬(h.slot = k ∧ h.seq = seq)

/-- The lowest-numbered FREE repair slot (R45). -/
structure LowestFree (s : State) (q : Fin 8) : Prop where
  free : s.held q = none
  lowest : ∀ q', q' < q → s.held q' ≠ none

/-- What step 2 of a resolution hands on to the line-link step when it does not drop the frame (Table 3-3): from `v`, with
the sequence recorded, the state, the frame, its partition count, and whether it is TRIMMED and DAMAGED (R57 to R60, R104). -/
inductive AfterPolicy (v : State) (x : Subject) (cfg : StreamConfig) : State → Frame → Nat → Bool → Bool → Prop where
  | whole : x.good.all id = true → AfterPolicy v x cfg v x.frame x.good.length false false
  | trimmed (j bytes cells : Nat) : cfg.policy = .trim → x.good[j]? = some false →
    (∀ i, i < j → x.good[i]? = some true) → 1 ≤ j → bytes = 8 + j * (sizeBytes cfg.size + 2) →
    cells = (bytes + 63) / 64 → AfterPolicy v x cfg ((v.returnCells (x.frame.cells.drop cells)).bumpStream x.slot .trimmed)
      ⟨x.frame.bytes.take bytes, x.frame.cells.take cells⟩ j true false
  | marked (j : Nat) : cfg.policy = .mark → x.good[j]? = some false →
    AfterPolicy v x cfg (v.bumpStream x.slot .marked) x.frame x.good.length false true

/-- The credits of a stream after a frame has passed policing (R64): one less, when its burst is above 0. -/
def creditsAfter (st : Stream) : Byte := if st.cfg.burst = 0#8 then st.credits else st.credits - 1

/-- The banks that a reset or a loss of power leaves (R172): untouched without a save or seal in progress; else the other
bank untouched, and the target not valid when cut in its erase or write, as written when cut in its read back. -/
structure InterruptedBanks (s : State) (b : PerBank Memory) : Prop where
  noJob : s.op.job? = none → b = s.banks
  other : ∀ j, s.op.job? = some j → b.get (otherBank j.target) = s.banks.get (otherBank j.target)
  cut : ∀ j, s.op.job? = some j → j.phase ≠ .readBack → (b.get j.target).condition ≠ .valid
  written : ∀ j, s.op.job? = some j → j.phase = .readBack → b = s.banks

/-- The part right after a power-on, pin reset or FULL reset taken in `s`: every block in its reset state, and what
the start-up load reads from the banks of `s` (R168, R169 and the reset tables of the chapters). -/
structure FreshPart (s t : State) : Prop where
  phase : t.phase = .loading
  count : t.count = 0#32
  banks : t.banks = s.banks
  image : t.imageState = imageStateOf s.banks
  empty : newestBank s.banks = none → (∀ k, t.stream k = none) ∧ t.globals = Globals.default
  loaded : ∀ bk, newestBank s.banks = some bk →
    (∀ k, t.stream k = loadSlot (s.banks.get bk).sealedMark (slotBytes (s.banks.get bk).bytes k)) ∧
      t.globals = loadGlobals (s.banks.get bk)
  generation : t.generation = 1#16
  repair : ∀ q, t.held q = none
  links : ∀ p, (t.port p).link = .down ∧ (t.port p).reception = none ∧ (t.port p).tx = none
  portCounters : ∀ p c, t.portCounter p c = 0#32
  free : t.free.length = 256
  queues : ∀ q, t.queue q = []
  agent : t.agent.requests = [] ∧ t.agent.busy = false ∧ t.agent.lease = none ∧ t.agent.cache = none ∧
    t.agent.fullPending = false
  staging : t.staging = []
  op : t.op = .idle
  faults : t.faults.map (fun f => (f.kind, f.seq)) = (loadFault s.banks).toList.map (fun f => (f.kind, f.seq))
  stamps : ∀ f ∈ t.faults, f.firstTime.toNat ≤ 4
  overflow : t.overflow = 0#16
  globalCounters : ∀ c, t.globalCounter c = 0#32
  notices : t.notices = [] ∧ t.noticesLost = 0#16 ∧ t.serial = 0#16

/-! ### Invariants -/

/-- The bounds the spec gives the queues of records (R118, R137, R155, R161), and a generation from 1 on (R12). -/
structure State.Bounded (s : State) : Prop where
  faults : s.faults.length ≤ 16
  notices : s.notices.length ≤ 8
  requests : s.agent.requests.length ≤ 4
  staging : s.staging.length ≤ 16
  generation : s.generation ≠ 0#16

/-- A bank in canonical form, within its 1109 bytes (R179). -/
def Memory.Sound (m : Memory) : Prop := m.wf = true ∧ ∀ c ∈ m, c.1 < bankSize

/-- Both banks are in canonical form, and a save or seal in progress has a whole bank to write (R165, R179). -/
structure State.BanksSound (s : State) : Prop where
  bank : ∀ bk, (s.banks.get bk).Sound
  job : ∀ j, s.op.job? = some j → j.bytes.length = bankSize

/-- A non-empty history: top is a member, every member lies within 31 behind top, none twice (R21). -/
structure History.Sound (h : History) : Prop where
  top : h.accepts h.top = true
  window : ∀ m ∈ h.members, distance m.seq h.top ≤ 31
  once : (h.members.map (fun m => m.seq)).Nodup

/-- What the part remembers of each stream: histories in the form of R21, no candidate on an empty history (R31), no
pending pair in an accepted set, and no pair held twice (R44). -/
structure State.Remembers (s : State) : Prop where
  history : ∀ k st h, s.stream k = some st → st.history = some h → h.Sound
  candidate : ∀ k st, s.stream k = some st → st.history = none → st.candidate = none
  pending : ∀ r h st, s.held r = some h → s.stream h.slot = some st → accepted st.history h.seq = false
  distinct : ∀ r q h g, s.held r = some h → s.held q = some g → h.slot = g.slot → h.seq = g.seq → r = q

/-- The frames a field port holds: in transmission and in its command queue (R101, R110). -/
def State.fieldFrames (s : State) (p : FPort) : List Frame :=
  ((s.port (portOf p)).tx.toList ++ s.command.get p).map (fun x => x.frame)

/-- The cells of a port's reception in progress. -/
def State.receptionCells (s : State) (p : Port) : List CellId :=
  match (s.port p).reception with
  | some r => r.cells
  | none => []

/-- The cells of a list of frames. -/
def cellsOf (l : List Frame) : List CellId := l.flatMap (fun f => f.cells)

/-- The cells of every frame the part holds, those of a frame shared by both field ports once (R101): receptions, repair
slots, lane and class queues, the transmission on L, the request queue, and what the field ports hold. -/
def State.cellsHeld (s : State) : List CellId :=
  s.receptionCells .f0 ++ s.receptionCells .f1 ++ s.receptionCells .l ++
    cellsOf (s.repair.toList.flatMap (fun h => h.toList.map (fun h => h.frame))) ++
    cellsOf ((s.lane ++ s.classes.toList.flatten ++ (s.port .l).tx.toList).map (fun x => x.frame)) ++
    cellsOf s.agent.requests ++
    cellsOf (s.fieldFrames .f0) ++
    cellsOf ((s.fieldFrames .f1).filter (fun f => !(s.fieldFrames .f0).any (fun g => g.cells == f.cells)))

/-- Every cell of the pool is free or held, and by one frame (R101): the free list and the cells held are together the 256
cells, none twice, and no field port holds a cell twice. -/
structure State.PoolSound (s : State) : Prop where
  whole : (s.free ++ s.cellsHeld).Perm allCells
  once : ∀ p, (cellsOf (s.fieldFrames p)).Nodup

/-- No two slots share a field stream id or a line stream id (R3). -/
def DistinctIds (slots : Vector (Option Stream) 64) : Prop :=
  ∀ (i j : Fin 64) (a b : Stream), slots[i] = some a → slots[j] = some b →
    a.cfg.fieldId = b.cfg.fieldId ∨ a.cfg.lineId = b.cfg.lineId → i = j

/-- A set of records as staging makes it: one record for a slot, one globals record, each record of its action's form
(R137, R138). -/
structure StagedSound (l : List Staged) : Prop where
  once : l.Pairwise (fun x y => sameRecordTarget x y = false)
  form : ∀ k act f, .entry k act f ∈ l → entryOk act f = true

/-- The table's laws (R3, R65), with what keeps them: sound staged sets, banks and a bank to be written whose content
satisfies R3 (R166), and a newest bank while the kept image state says that one is valid (R167). -/
structure State.TableSound (s : State) : Prop where
  ids : DistinctIds s.slots
  credits : ∀ k st, s.stream k = some st → st.credits.toNat ≤ st.cfg.burst.toNat
  staged : StagedSound s.staging
  committing : ∀ l m, s.op = .commit l m → StagedSound l
  banks : ∀ bk, (s.banks.get bk).condition = .valid → DistinctIds (loadSlots (s.banks.get bk))
  job : ∀ j, s.op.job? = some j → j.bytes.length = bankSize ∧ DistinctIds (loadSlots (Memory.ofBytes j.bytes))
  image : s.phase = .loading ∨ s.phase = .running → s.op.job? = none →
    s.imageState = .valid ∨ s.imageState = .sealed → newestBank s.banks ≠ none

/-- A part whose image is sealed, with no save or seal in progress (R167, R175). -/
structure State.SealedImage (s : State) : Prop where
  banks : imageStateOf s.banks = .sealed
  noJob : s.op.job? = none
  kept : s.phase = .loading ∨ s.phase = .running → s.imageState = .sealed

end Sys2Proof.Machine
end

