-- ==== Sys2Proof/Certificates/Slice0/Obligations.lean ====
section
/-! DEFINITION. The statements for the provers. Each says which rule of spec/ it formalises; a statement about
what the part does uses the state's own parts and the shared operations' names. -/

open Sys2Proof Sys2Proof.Machine

/-! ### The machine -/

/-- A step of a state with command `c` at the front of its queue is `exec c` on the state with the queue's rest; on an empty
queue the block idles (the model's choice, log 2). -/
def Obligations.StepTakesFrontCommand : Prop :=
  (∀ (c : Instr) (rest : List Instr) (s : State), s.pending = c :: rest → step s = exec c { s with pending := rest }) ∧
  (∀ s : State, s.pending = [] → step s = .next s)

/-- Every well-formed command answers a next state: no error stops the part (Chapter 10). The one stop is that of a read
back that names a byte beyond the 1109 of a bank (R179; the model's choice, log 23). No command touches the queue of waiting
commands (95: each step is whole and indivisible). -/
def Obligations.EveryCommandAnswers : Prop :=
  (∀ (c : Instr) (s : State), c.wf = true → ∃ t, exec c s = .next t) ∧
  (∀ (l : List (Nat × Byte)) (c : Nat × Byte) (s : State), c ∈ l → 1109 ≤ c.1 →
     ∃ a, 1109 ≤ a ∧ exec (.saveEnd l) s = .fault (.noSuchBankByte a) ∧ exec (.sealEnd l) s = .fault (.noSuchBankByte a)) ∧
  (∀ (c : Instr) (s t : State), exec c s = .next t → t.pending = s.pending)

/-- What follows a happening at once touches the egress alone: neither links, receptions and counters nor any other
field; with L not UP it feeds no notice (R96, R109, R112). -/
def Obligations.SettleTouchesEgressOnly : Prop :=  ∀ s : State, EgressOnly s s.settle ∧ (s.phase ≠ .running → s.settle = s) ∧
    (s.linkUp .l = false → s.settle.lane = s.lane ∧ s.settle.classes = s.classes ∧ s.settle.notices = s.notices ∧
      s.settle.serial = s.serial ∧ s.settle.noticesLost = s.noticesLost ∧ s.settle.free = s.free)

/-! ### Power and reset -/

/-- The reset values the spec gives (R12, R44, R87, R101, R123, R137, R155, R159, R161, R162), every counter 0 among them. What
the spec makes depend on the banks is that of two erased banks, which are the model's choice (log 10): the empty table, the
default globals, image state BLANK and empty logs (R167, R169). -/
def Obligations.ResetValues : Prop :=  State.reset.phase = .loading ∧ State.reset.count = 0#32 ∧ (∀ k, State.reset.stream k = none) ∧
  State.reset.generation = 1#16 ∧ State.reset.globals.station = 0#12 ∧
  State.reset.globals.limits = #v[96#16, 64#16, 48#16, 32#16] ∧ State.reset.globals.leaseTimeout = 20#8 ∧
  State.reset.globals.enables = 127#7 ∧ (∀ r, State.reset.held r = none) ∧
  (∀ p, (State.reset.port p).link = .down ∧ (State.reset.port p).reception = none ∧ (State.reset.port p).tx = none) ∧
  State.reset.free.length = 256 ∧ (∀ q, State.reset.queue q = []) ∧ State.reset.agent.requests = [] ∧
  State.reset.agent.busy = false ∧ State.reset.agent.lease = none ∧ State.reset.agent.cache = none ∧
  State.reset.agent.fullPending = false ∧
  State.reset.staging = [] ∧ State.reset.op = .idle ∧ State.reset.faults = [] ∧ State.reset.overflow = 0#16 ∧
  State.reset.notices = [] ∧ State.reset.noticesLost = 0#16 ∧ State.reset.serial = 0#16 ∧
  (∀ p c, State.reset.portCounter p c = 0#32) ∧ (∀ c, State.reset.globalCounter c = 0#32) ∧
  (∀ k c, State.reset.streamCounter k c = 0#32) ∧ State.reset.imageState = .blank ∧
  ∀ bk, (State.reset.banks.get bk).condition = .erased

/-- POWER_ON with RSTn high and PIN_RESET after 1 µs low take the reset and the load from the banks that a save or seal in
progress, if any, leaves (R168, R169, R172). The row FULL_RESET takes the same reset and load when one is pending and its
response does not wait in the lane (the model's reading of R135, log 7: also while the response is in transmission). -/
def Obligations.ResetIsTaken : Prop :=  ∀ s : State,
    (s.rstnLow = false → Answers .powerOn s (fun t => ∃ b, InterruptedBanks s b ∧ FreshPart { s with banks := b } t)) ∧
    (s.phase ≠ .off → ∀ n, 1000 ≤ n → Answers (.pinReset n) s (fun t =>
      ∃ b, InterruptedBanks s b ∧ FreshPart { s with banks := b } t ∧ t.rstnLow = false)) ∧
    (s.phase = .running → s.agent.fullPending = true → s.lane.any isResetResponse = false →
      Answers .fullReset s (FreshPart s))

/-- Without power, and held in reset while RSTn is low, every transmitter is silent, no operation is left and no notice is
raised; the banks keep their contents but for the target of a save or seal cut short (R86, R165, R168, R172). POWER_ON with
RSTn low holds the part, and without power only the pin is noted (log 8). A low pulse shorter than 1 µs is filtered (R180). -/
def Obligations.PowerLossAndHold : Prop :=
  (∀ s : State,
     let stopped := fun (ph : Phase) (t : State) => t.phase = ph ∧ InterruptedBanks s t.banks ∧ t.op = .idle ∧
       t.notices = [] ∧ ∀ p, t.txOutput p = .silent
     Answers .powerLoss s (stopped .off) ∧
     (s.phase ≠ .off → Answers .rstnAsserted s (fun t => stopped .held t ∧ t.rstnLow = true)) ∧
     (s.rstnLow = true → Answers .powerOn s (fun t => stopped .held t ∧ t.rstnLow = true)) ∧
     (s.phase = .off → exec .rstnAsserted s = .next { s with rstnLow := true } ∧
       ∀ n, exec (.pinReset n) s = .next { s with rstnLow := false })) ∧
  (∀ (s : State) (n : Nat), s.phase ≠ .off → s.rstnLow = false → n < 1000 → exec (.pinReset n) s = .next s)

/-- The end of the load: running; the interval timers of ACTIVE slots with burst above 0 start; present signals are
detected; a fault that the load raised (IMAGE_BANK_BAD, IMAGE_CORRUPT) is stamped with a count from 0 to 4 that is not above the
present one, a free value within that range (R154, R168; log 9); nothing else changes but the index of the free values (R66,
R68, R87, R168). -/
def Obligations.LoadEndBegins : Prop :=  ∀ s : State, s.phase = .loading → (∀ p, (s.port p).link = .down) →
    Answers .startUpLoadEnd s (fun t =>
      t = { s with
        phase := .running, slots := t.slots, ports := t.ports, faults := t.faults, freeIx := t.freeIx } ∧
      (∃ reading : Word32, reading.toNat ≤ 4 ∧ reading.toNat ≤ s.count.toNat ∧ t.faults = s.faults.map (fun f =>
        if f.kind = .imageBankBad ∨ f.kind = .imageCorrupt then { f with firstTime := reading, lastTime := reading }
        else f)) ∧
      (∀ k, t.stream k = (s.stream k).map (fun st =>
        { st with intervalTimer := if st.suspended = true ∨ st.cfg.burst = 0#8 then none else some st.cfg.interval })) ∧
      ∀ p, t.port p =
        { s.port p with link := if (s.port p).signal = true then .aligning 0 false false else .down })

/-! ### Links -/

/-- A signal detected on a DOWN port: ALIGNING with run 0, nothing else (R87). The run-out of the alignment timer, and the
loss of signal in ALIGNING: DOWN without any link-loss effect; a present signal is detected again at once (R87, R88). An
alignment word in ALIGNING extends the run; the link comes UP when the run has reached 4 and a word with the acknowledgment
mark has been received; then the paths on a field port become FRESH and PORT_UP is raised, and on L nothing else happens
(R81, R88, R99, R100). -/
def Obligations.Alignment : Prop :=
  (∀ (s : State) (p : Port), s.phase = .running → (s.port p).link = .down →
     Settles (.signalDetected p) s
       (s.setPort p { s.port p with signal := true, link := .aligning 0 false false })) ∧
  (∀ (s : State) (p : Port) (run : Nat) (r a : Bool), s.phase = .running → (s.port p).link = .aligning run r a →
     Settles (.alignmentTimerRunOut p) s
       (s.setPort p { s.port p with link := if (s.port p).signal = true then .aligning 0 false false else .down }) ∧
     Settles (.signalLost p) s (s.setPort p { s.port p with signal := false, link := .down })) ∧
  ∀ (s : State) (p : Port) (run : Nat) (r a ack : Bool), s.phase = .running → (s.port p).link = .aligning run r a →
    let reached : Bool := r || decide (3 ≤ run)
    let acked : Bool := a || ack
    ((reached && acked) = false → Settles (.alignmentWordReceived p ack) s
      (s.setPort p { s.port p with link := .aligning (run + 1) reached acked })) ∧
    ((reached && acked) = true → p = .l → Settles (.alignmentWordReceived p ack) s
      (s.setPort .l { s.port .l with link := .up [] })) ∧
    ∀ q : FPort, (reached && acked) = true → p = portOf q → Settles (.alignmentWordReceived p ack) s
      (((s.setPort p { s.port p with link := .up [] }).mapAllStreams (fun st =>
        if st.suspended = true then st else { st with paths := st.paths.set q .fresh })).raiseNotice (.portUp q s.count))

/-- Symbols outside a reception (Table 6-1): every one is ignored in DOWN; data bytes, markers and the start of a frame
break the run in ALIGNING; data bytes, abort and end markers, alignment words and idle fill are ignored in UP between
frames (R88). -/
def Obligations.SymbolsBetweenFrames : Prop :=  ∀ (s : State) (p : Port) (b : Byte) (ack : Bool) (sub : Nat) (c : Instr), s.phase = .running →
    (c = .dataByteReceived p b ∨ c = .abortMarkerReceived p ∨ c = .frameReceived p ∨ c = .startMarkerReceived p →
      ∀ run r a, (s.port p).link = .aligning run r a →
        Settles c s (s.setPort p { s.port p with link := .aligning 0 r a })) ∧
    (c = .dataByteReceived p b ∨ c = .abortMarkerReceived p ∨ c = .frameReceived p ∨ c = .alignmentWordReceived p ack →
      s.linkUp p = true → (s.port p).reception = none → Settles c s s) ∧
    (c = .dataByteReceived p b ∨ c = .abortMarkerReceived p ∨ c = .frameReceived p ∨ c = .startMarkerReceived p ∨
        c = .alignmentWordReceived p ack ∨ c = .lineCodeError p sub →
      (s.port p).link = .down → Settles c s s)

/-- A line-code error (R89): in UP it is kept with the errors not more than 1 ms (25000 periods of 40 ns, log 12) old,
and the sixteenth kept takes the link DOWN; within a reception the sixteenth counts MALFORMED and not ABORTED (the model's
reading of R91, log 13), unless it brings a pending FULL reset; in ALIGNING an error breaks the run. -/
def Obligations.LineCodeErrorKept : Prop :=  ∀ (s : State) (p : Port) (sub : Nat), s.phase = .running →
    (∀ run r a, (s.port p).link = .aligning run r a →
      Settles (.lineCodeError p sub) s (s.setPort p { s.port p with link := .aligning 0 r a })) ∧
    ∀ errors, (s.port p).link = .up errors →
      let now := s.uptime * 25000 + sub
      let kept := errors.filter (fun t => decide (now ≤ t + 25000)) ++ [now]
      ((s.port p).reception = none → kept.length < 16 →
        Settles (.lineCodeError p sub) s (s.setPort p { s.port p with link := .up kept })) ∧
      (16 ≤ kept.length → Answers (.lineCodeError p sub) s (fun t => t.linkUp p = false)) ∧
      (16 ≤ kept.length → p ≠ .l ∨ (s.agent.fullPending && s.resetResponseOnL) = false →
        Answers (.lineCodeError p sub) s (fun t => t.linkUp p = false ∧ (t.port p).reception = none ∧
          t.portCounter p .malformed = (if (s.port p).reception.isSome = true then satInc 32 (s.portCounter p .malformed)
            else s.portCounter p .malformed) ∧
          t.portCounter p .aborted = s.portCounter p .aborted))

/-- A loss of link on a field port by a loss of signal (R53, R80, R98): the reception is ABORTED, the transmission TX_ABORTED, the command
queue emptied, the paths of ACTIVE slots on the port LOST, and the held copies that awaited a twin from the port are
settled; the rest of the part stands. In detail: each flushed frame counts FLUSHED, the cells of the reception return, and those
of the port's frames unless the other port holds them (R103, R111); PORT_DOWN carries the count of paths lost; then the copies
that the other port's repair slots hold are resolved alone, in ascending order of slots (R53, R74). -/
def Obligations.FieldLinkLoss : Prop :=  ∀ (s : State) (p : FPort) (errors : List Nat), s.phase = .running → (s.port (portOf p)).link = .up errors →
    Answers (.signalLost (portOf p)) s (fun t =>
      (t.port (portOf p)).link = .down ∧ (t.port (portOf p)).reception = none ∧ (t.port (portOf p)).tx = none ∧
      t.command.get p = [] ∧
      t.portCounter (portOf p) .aborted =
        (if (s.port (portOf p)).reception.isSome = true then satInc 32 (s.portCounter (portOf p) .aborted)
         else s.portCounter (portOf p) .aborted) ∧
      t.portCounter (portOf p) .txAborted =
        (if (s.port (portOf p)).tx.isSome = true then satInc 32 (s.portCounter (portOf p) .txAborted)
         else s.portCounter (portOf p) .txAborted) ∧
      (∀ k st, s.stream k = some st → ∃ st', t.stream k = some st' ∧ st'.cfg = st.cfg ∧ st'.locked = st.locked ∧
        st'.suspended = st.suspended ∧ st'.path (otherPort p) = st.path (otherPort p) ∧
        (st.suspended = true → st'.path p = st.path p) ∧
        (st.suspended = false → (st.path p).isLost = true → st'.path p = st.path p) ∧
        (st.suspended = false → (st.path p).isLost = false → st'.path p = .lost s.count)) ∧
      (∀ r h, s.held r = some h → t.held r = if h.port = otherPort p then none else some h) ∧
      (∀ q, q ≠ portOf p → (t.port q).link = (s.port q).link ∧ (t.port q).reception = (s.port q).reception) ∧
      t.agent = s.agent ∧ t.staging = s.staging ∧ t.op = s.op ∧ t.banks = s.banks ∧ t.globals = s.globals ∧
      t.generation = s.generation ∧ t.count = s.count) ∧
    let settleCopy := fun (x : State) (r : Fin 8) =>
      match x.held r with
      | some h =>
        if h.port = otherPort p then
          (x.setHeld r none).resolve { slot := h.slot, seq := h.seq, via := h.port, good := h.good, merged := false,
                                       mark := none, frame := h.frame }
        else x
      | none => x
    let frames := (s.port (portOf p)).tx.toList ++ s.command.get p
    ∃ v : State,
      Settles (.signalLost (portOf p)) s
        (allRepair.foldl settleCopy (v.raiseNotice (.portDown p s.count
          (allSlots.filter (fun k =>
            (s.stream k).any (fun st => !st.suspended && !(st.path p).isLost))).length))) ∧
      v = { s with ports := v.ports, slots := v.slots, free := v.free, command := s.command.set p [],
                   globalCtrs := v.globalCtrs, noticesLost := v.noticesLost } ∧
      (∀ q, q ≠ portOf p → v.port q = s.port q) ∧
      v.port (portOf p) = { s.port (portOf p) with
        signal := false, link := .down, reception := none, tx := none, counters := (v.port (portOf p)).counters
        lastEnd := if (s.port (portOf p)).tx.isSome = true then some .cut else (s.port (portOf p)).lastEnd } ∧
      (∀ c, v.portCounter (portOf p) c =
        if c = .aborted ∧ (s.port (portOf p)).reception.isSome = true ∨
            c = .txAborted ∧ (s.port (portOf p)).tx.isSome = true
        then satInc 32 (s.portCounter (portOf p) c) else s.portCounter (portOf p) c) ∧
      (∀ k, v.stream k = (s.stream k).map (fun st =>
        if st.suspended = true ∨ (st.path p).isLost = true then st
        else { st with paths := st.paths.set p (.lost s.count) })) ∧
      (∀ c, v.globalCounter c = if c = .flushed (.command p)
        then (satInc 32)^[(s.command.get p).length] (s.globalCounter c) else s.globalCounter c) ∧
      v.noticesLost.toNat =
        min 65535 (s.noticesLost.toNat + (frames.map (fun x => (keptLost x.origin).toNat)).sum) ∧
      v.free = s.free ++ s.receptionCells (portOf p) ++
        (frames.filter (fun x => !s.portHolds (otherPort p) x.frame)).flatMap (fun x => x.frame.cells)

/-- A loss of link on L (R97, R98, R100, R111, R114, R135): the reception is ABORTED, the transmission TX_ABORTED, lane and
class queues are flushed with their FLUSHED counts, all their cells return, and the lost counts kept with unsent notice frames
are added back (R163); streams, repair slots, requests and the notice queue stand; a pending FULL reset whose response is lost
is taken, from the banks as they stand. -/
def Obligations.LineLinkLoss : Prop :=  ∀ (s : State) (errors : List Nat), s.phase = .running → (s.port .l).link = .up errors →
    ((s.agent.fullPending && s.resetResponseOnL) = true → Answers (.signalLost .l) s (FreshPart s)) ∧
    ((s.agent.fullPending && s.resetResponseOnL) = false →
      let frames := (s.port .l).tx.toList ++ s.lane ++ allClasses.flatMap (fun c => s.queue (.cls c))
      Answers (.signalLost .l) s (fun t =>
        (t.port .l).link = .down ∧ (t.port .l).reception = none ∧ (t.port .l).tx = none ∧ t.lane = [] ∧
        (∀ c, t.queue (.cls c) = []) ∧ t.slots = s.slots ∧ t.repair = s.repair ∧ t.agent = s.agent ∧
        t.notices = s.notices ∧ t.faults = s.faults ∧ t.staging = s.staging ∧ t.op = s.op ∧ t.banks = s.banks ∧
        t.globals = s.globals ∧ t.generation = s.generation ∧
        (∀ c, t.portCounter .l c =
          if c = .aborted ∧ (s.port .l).reception.isSome = true ∨ c = .txAborted ∧ (s.port .l).tx.isSome = true
          then satInc 32 (s.portCounter .l c) else s.portCounter .l c) ∧
        t.globalCounter (.flushed .lane) = (satInc 32)^[s.lane.length] (s.globalCounter (.flushed .lane)) ∧
        (∀ c, t.globalCounter (.flushed (.cls c)) =
          (satInc 32)^[(s.queue (.cls c)).length] (s.globalCounter (.flushed (.cls c)))) ∧
        (∀ c, (∀ q, c ≠ .flushed q) → t.globalCounter c = s.globalCounter c) ∧
        t.free = s.free ++ s.receptionCells .l ++ frames.flatMap (fun x => x.frame.cells) ∧
        t.noticesLost.toNat =
          min 65535 (s.noticesLost.toNat + (frames.map (fun x => (keptLost x.origin).toNat)).sum)))

/-! ### Reception -/

/-- A start marker between frames takes one cell; a data byte is stored, and bytes 65, 129, 193 and so on take a further
cell. A field port is refused while 4 or fewer cells are free, L when none is; a refusal ends the reception as POOL_EMPTY
(R90, R91, R102). -/
def Obligations.BytesTakeCells : Prop :=
  (∀ (s : State) (p : Port), s.phase = .running → s.linkUp p = true → (s.port p).reception = none →
     (∀ c rest, s.free = c :: rest → (p = .l ∨ 5 ≤ s.free.length) → Settles (.startMarkerReceived p) s
       { s.setPort p { s.port p with reception := some ⟨[], [c]⟩ } with free := rest }) ∧
     ((p = .l ∧ s.free = [] ∨ p ≠ .l ∧ s.free.length ≤ 4) → Settles (.startMarkerReceived p) s
       ((s.bumpPort p .poolEmpty).raiseFault { kind := .poolEmpty, port := some p }))) ∧
  (∀ (s : State) (p : Port) (r : Reception) (b : Byte), Receiving s p r → r.bytes.length < 1064 →
     (r.bytes.length = 0 ∨ r.bytes.length % 64 ≠ 0 → Settles (.dataByteReceived p b) s
       (s.setPort p { s.port p with reception := some ⟨r.bytes ++ [b], r.cells⟩ })) ∧
     (r.bytes.length ≠ 0 → r.bytes.length % 64 = 0 →
       (∀ c rest, s.free = c :: rest → (p = .l ∨ 5 ≤ s.free.length) → Settles (.dataByteReceived p b) s
         { s.setPort p { s.port p with reception := some ⟨r.bytes ++ [b], r.cells ++ [c]⟩ } with free := rest }) ∧
       ((p = .l ∧ s.free = [] ∨ p ≠ .l ∧ s.free.length ≤ 4) → Settles (.dataByteReceived p b) s
         ((((s.setPort p { s.port p with reception := none }).returnCells r.cells).bumpPort p .poolEmpty).raiseFault
           { kind := .poolEmpty, port := some p }))))

/-- Within a reception an abort marker, an alignment word or idle fill, data byte 1065, an end marker after fewer than 26
bytes, a line-code error and a start marker end it as MALFORMED: cells, counter, fault (R91). The line-code error is kept
besides, at its time in periods of 40 ns, with those not more than 25000 periods old (R89; the unit is the model's choice, log
12), the sixteenth being a loss of link too; after the start marker a new reception asks for its first cell (R90). -/
def Obligations.MalformedReception : Prop :=  ∀ (s : State) (p : Port) (r : Reception) (c : Instr), Receiving s p r →
    let v := (((s.setPort p { s.port p with reception := none }).returnCells r.cells).bumpPort p .malformed).raiseFault
      { kind := .malformed, port := some p }
    ((c = .abortMarkerReceived p ∨ (∃ ack, c = .alignmentWordReceived p ack) ∨
      ((∃ b, c = .dataByteReceived p b) ∧ r.bytes.length = 1064) ∨ (c = .frameReceived p ∧ r.bytes.length < 26)) →
      Settles c s v) ∧
    (∀ sub errors, (s.port p).link = .up errors →
      let now := s.uptime * 25000 + sub
      let kept := errors.filter (fun t => decide (now ≤ t + 25000)) ++ [now]
      kept.length < 16 → Settles (.lineCodeError p sub) s (v.setPort p { v.port p with link := .up kept })) ∧
    (∀ x rest, s.free ++ r.cells = x :: rest → (p = .l ∨ 5 ≤ (s.free ++ r.cells).length) →
      Settles (.startMarkerReceived p) s
        { v.setPort p { v.port p with reception := some ⟨[], [x]⟩ } with free := rest }) ∧
    ((p = .l ∧ s.free ++ r.cells = [] ∨ p ≠ .l ∧ (s.free ++ r.cells).length ≤ 4) → Settles (.startMarkerReceived p) s
      ((v.bumpPort p .poolEmpty).raiseFault { kind := .poolEmpty, port := some p }))

/-- A whole frame with a bad header check or an unknown kind counts FRAMES_RECEIVED and HEADER_ERROR, is dropped and
raises a fault (R92). Frames that come the wrong way: COMMAND and MGMT_REQ on a field port are dropped with FIELD_CONTROL
and its fault; DATA, MGMT_RSP and MGMT_NOTICE on L are dropped with LINE_DATA and no fault (R93, R94). A MGMT_RSP or
MGMT_NOTICE from a field port joins the lane unchanged when its cells fit, else LANE_FULL (R93). A COMMAND frame from L, and a
MGMT_REQ for another station, is offered to both field command queues: each takes it by its own limit of 32 cells or counts
FIELD_QUEUE_FULL; when neither takes it its cells return (R94, R95, R110). -/
def Obligations.FramesDispatched : Prop :=
  (∀ (s : State) (p : Port) (r : Reception), Receiving s p r → 26 ≤ r.bytes.length →
     headerSound r.bytes = false ∨ frameKind r.bytes = none →
     Settles (.frameReceived p) s
       ((((s.frameTaken p).returnCells r.cells).bumpPort p .headerError).raiseFault
         { kind := .headerError, port := some p })) ∧
  (∀ (s : State) (r : Reception) (kind : Kind),
     (∀ p : FPort, FrameEnds s (portOf p) r kind → kind = .command ∨ kind = .mgmtReq →
       Settles (.frameReceived (portOf p)) s
         ((((s.frameTaken (portOf p)).returnCells r.cells).bumpGlobal .fieldControl).raiseFault
           { kind := .fieldControl, port := some (portOf p) })) ∧
     (FrameEnds s .l r kind → kind = .data ∨ kind = .mgmtRsp ∨ kind = .mgmtNotice →
       Settles (.frameReceived .l) s (((s.frameTaken .l).returnCells r.cells).bumpGlobal .lineData))) ∧
  (∀ (s : State) (p : FPort) (r : Reception) (kind : Kind), FrameEnds s (portOf p) r kind →
     kind = .mgmtRsp ∨ kind = .mgmtNotice →
     (cellCount s.lane + r.cells.length ≤ 16 → Settles (.frameReceived (portOf p)) s
       { s.frameTaken (portOf p) with lane := s.lane ++ [⟨⟨r.bytes, r.cells⟩, .passThrough⟩] }) ∧
     (16 < cellCount s.lane + r.cells.length → Settles (.frameReceived (portOf p)) s
       (((s.frameTaken (portOf p)).returnCells r.cells).bumpGlobal .laneFull))) ∧
  (∀ (s : State) (r : Reception) (kind : Kind), FrameEnds s .l r kind →
     kind = .command ∨ (kind = .mgmtReq ∧ frameId r.bytes ≠ s.globals.station) →
     let x : Queued := ⟨⟨r.bytes, r.cells⟩, .command⟩
     let fits := fun p : FPort => cellCount (s.command.get p) + r.cells.length ≤ 32
     let v := s.frameTaken .l
     (fits .f0 → fits .f1 → Settles (.frameReceived .l) s
       { v with command := ⟨s.command.f0 ++ [x], s.command.f1 ++ [x]⟩ }) ∧
     (fits .f0 → ¬ fits .f1 → Settles (.frameReceived .l) s
       (State.bumpGlobal { v with command := ⟨s.command.f0 ++ [x], s.command.f1⟩ } (.fieldQueueFull .f1))) ∧
     (¬ fits .f0 → fits .f1 → Settles (.frameReceived .l) s
       { v.bumpGlobal (.fieldQueueFull .f0) with command := ⟨s.command.f0, s.command.f1 ++ [x]⟩ }) ∧
     (¬ fits .f0 → ¬ fits .f1 → Settles (.frameReceived .l) s
       (((v.bumpGlobal (.fieldQueueFull .f0)).bumpGlobal (.fieldQueueFull .f1)).returnCells r.cells)))

/-- A request for this part joins the request queue while the agent is busy, and overflows when 4 wait; an idle agent
takes it at once (R94, R118, R119). AGENT_TURN_END: the agent is idle and takes the oldest waiting request, if any, unless
a FULL reset is pending (R119). A request row that does not come to an idle agent joins the request queue as its frame, in a
cell that L is granted, or overflows; with no free cell it is POOL_EMPTY of L (R101, R102; the model's row, log 6). -/
def Obligations.AgentTakesRequests : Prop :=
  (∀ (s : State) (r : Reception), FrameEnds s .l r .mgmtReq → frameId r.bytes = s.globals.station →
     (s.agent.busy = true → s.agent.requests.length < 4 → Settles (.frameReceived .l) s
       { s.frameTaken .l with agent := { s.agent with requests := s.agent.requests ++ [⟨r.bytes, r.cells⟩] } }) ∧
     (s.agent.busy = true → 4 ≤ s.agent.requests.length → Settles (.frameReceived .l) s
       (((s.frameTaken .l).returnCells r.cells).bumpGlobal .requestOverflow)) ∧
     (s.agent.busy = false → s.agent.fullPending = false → s.agent.requests = [] → Settles (.frameReceived .l) s
       (((s.frameTaken .l).returnCells r.cells).takeFrame r.bytes))) ∧
  (∀ (s : State) (m t : Word16) (c : Instr) (q : Request), s.phase = .running → Asks m t c q →
     (s.free = [] → Settles c s
       ((s.bumpPort .l .poolEmpty).raiseFault { kind := .poolEmpty, port := some .l })) ∧
     ∀ x rest, s.free = x :: rest → s.agent.busy = true ∨ s.agent.fullPending = true →
       (s.agent.requests.length < 4 → Settles c s
         { s with free := rest, agent := { s.agent with
             requests := s.agent.requests ++ [⟨mgmtFrame .mgmtReq s.globals.station t (requestPayload m q), [x]⟩] } }) ∧
       (4 ≤ s.agent.requests.length → Settles c s
         (State.bumpGlobal { s with free := rest ++ [x] } .requestOverflow))) ∧
  (∀ s : State, s.phase = .running → s.agent.busy = true →
     (s.agent.requests = [] ∨ s.agent.fullPending = true → Settles .agentTurnEnd s
       { s with agent := { s.agent with busy := false } }) ∧
     ∀ f rest, s.agent.requests = f :: rest → s.agent.fullPending = false → Settles .agentTurnEnd s
       (({ s with agent := { s.agent with busy := false, requests := rest } } : State).release f |>.takeFrame f.bytes))

/-! ### The classifier, the history unit and the repair unit -/

/-- R16: a DATA copy whose stream id no slot holds. -/
def Obligations.UnknownStreamDropped : Prop :=  ∀ (s : State) (p : FPort) (r : Reception), FrameEnds s (portOf p) r .data →
    (∀ k st, s.stream k = some st → st.cfg.fieldId ≠ frameId r.bytes) →
    Settles (.frameReceived (portOf p)) s
      ((((s.frameTaken (portOf p)).returnCells r.cells).bumpGlobal .unknownStream).raiseFault
        { kind := .unknownStream, port := some (portOf p), fieldId := some (frameId r.bytes) })

/-- R17: a DATA copy whose slot is SUSPENDED. -/
def Obligations.SuspendedCopyDropped : Prop :=  ∀ (s : State) (p : FPort) (r : Reception) (k : Fin 64) (st : Stream), FrameEnds s (portOf p) r .data →
    FoundSlot s (frameId r.bytes) k st → st.suspended = true →
    Settles (.frameReceived (portOf p)) s
      (((s.frameTaken (portOf p)).returnCells r.cells).bumpStream k .suspendedDrop)

/-- A copy that fails the format check is dropped with its counter and fault, and nothing else (R40). The partition checks:
an all-good copy counts GOOD and makes its path UP with the timer started afresh, with PATH_RESTORED when it was LOST; a
damaged one counts DAMAGED alone (R41, R42, R77, R85). -/
def Obligations.CopyChecks : Prop :=
  (∀ (s : State) (p : FPort) (r : Reception) (k : Fin 64) (st : Stream), FrameEnds s (portOf p) r .data →
     FoundSlot s (frameId r.bytes) k st → st.suspended = false →
     (sizeOfCode (byteAt r.bytes 0) ≠ some st.cfg.size ∨
       r.bytes.length ≠ 8 + frameCount r.bytes * (sizeBytes st.cfg.size + 2)) →
     Settles (.frameReceived (portOf p)) s
       ((((s.frameTaken (portOf p)).returnCells r.cells).bumpStream k .formatMismatch).raiseFault
         { kind := .formatMismatch, port := some (portOf p), fieldId := some (frameId r.bytes),
           seq := some (frameSeq r.bytes) })) ∧
  (∀ (s : State) (p : FPort) (k : Fin 64) (st : Stream) (r : Reception), CopyEnds s p k st r →
     let good := (List.range (frameCount r.bytes)).map (fun i =>
       crc16 (partPayload r.bytes (sizeBytes st.cfg.size) i) ==
         word16At (partWithCheck r.bytes (sizeBytes st.cfg.size) i) (sizeBytes st.cfg.size))
     (good.all id = false → s.copyChecked p k st r = (s.frameTaken (portOf p)).bumpStream k (.damaged p)) ∧
     (good.all id = true →
       let w := (s.frameTaken (portOf p)).setSlot k
         (some { st.bump (.good p) with paths := st.paths.set p (.up (some st.cfg.pathTimeout)) })
       ((st.path p).isLost = false → s.copyChecked p k st r = w) ∧
       (∀ lostAt, st.path p = .lost lostAt → s.copyChecked p k st r =
         w.raiseNotice (.pathRestored k st.cfg.fieldId p lostAt s.count))))

/-- R47: a copy from the held port of a pending pair. -/
def Obligations.HeldPortRepeat : Prop :=  ∀ (s : State) (p : FPort) (k : Fin 64) (st : Stream) (r : Reception) (q : Fin 8) (h : Held),
    CopyEnds s p k st r → s.held q = some h → h.slot = k → h.seq = frameSeq r.bytes → h.port = p →
    (∀ q' h', s.held q' = some h' → h'.slot = k → h'.seq = frameSeq r.bytes → q' = q) →
    Settles (.frameReceived (portOf p)) s
      (((s.copyChecked p k st r).returnCells r.cells).bumpStream k .duplicate)

/-- A copy from the other port of a pending pair frees its repair slot. A twin of another count is dropped with a
TWIN_MISMATCH fault, and the held copy is resolved alone (R48). An all-good twin replaces the held copy, counts REPLACED and is
resolved (R49). A damaged one is merged, counts MERGED, and the merged frame is resolved via the held port, good where either
copy was good (R50). The merged bytes: the held copy's, but for the partitions bad in it and good in the twin, which are the
twin's with their checks. What a resolution does is the statement Resolution. -/
def Obligations.TwinMeetsHeld : Prop :=
  (∀ (s : State) (p : FPort) (k : Fin 64) (st : Stream) (r : Reception) (q : Fin 8) (h : Held),
    CopyEnds s p k st r → s.held q = some h → h.slot = k → h.seq = frameSeq r.bytes → h.port = otherPort p →
    (∀ q' h', s.held q' = some h' → h'.slot = k → h'.seq = frameSeq r.bytes → q' = q) →
    let v := s.copyChecked p k st r
    let good := (copyOf p k st r).good
    (good.length ≠ h.count → Settles (.frameReceived (portOf p)) s
      ((((v.returnCells r.cells).raiseFault
          { kind := .twinMismatch, port := some (portOf p), fieldId := some st.cfg.fieldId,
            seq := some (frameSeq r.bytes) }).setHeld q none).resolve
        { slot := k, seq := h.seq, via := otherPort p, good := h.good, merged := false, mark := none,
          frame := h.frame })) ∧
    (good.length = h.count → good.all id = true → Settles (.frameReceived (portOf p)) s
      ((((v.setHeld q none).returnCells h.frame.cells).bumpStream k .replaced).resolve
        { slot := k, seq := h.seq, via := p, good := good, merged := false, mark := none,
          frame := ⟨r.bytes, r.cells⟩ })) ∧
    (good.length = h.count → good.all id = false → Settles (.frameReceived (portOf p)) s
      ((((v.setHeld q none).returnCells r.cells).bumpStream k .merged).resolve
        { slot := k, seq := h.seq, via := otherPort p, good := h.good.zipWith (fun a b => a || b) good, merged := true,
          mark := none
          frame := ⟨mergedBytes (sizeBytes st.cfg.size) h.frame.bytes r.bytes h.good good, h.frame.cells⟩ }))) ∧
  (∀ (size : Nat) (a b : List Byte) (g g' : List Bool), a.length = 8 + g.length * (size + 2) → b.length = a.length →
    g'.length = g.length →
    let f := mergedBytes size a b g g'
    f.length = a.length ∧ f.take 8 = a.take 8 ∧
      ∀ i, i < g.length → partWithCheck f size i =
        if g[i]? = some false ∧ g'[i]? = some true then partWithCheck b size i else partWithCheck a size i)

/-- Table 2-1: the class of a sequence against a history (R25). Table 2-3: recording keeps a history in its form, and a
late-twin mark goes with the recorded member (R21, R22, R28, R36). -/
def Obligations.HistoryTables : Prop :=
  ((∀ (jump : Nat) (s : Word16), classify none jump s = .new) ∧
  ∀ (h : History) (jump : Nat) (s : Word16), jump ≤ 1024 →
    let d := distance h.top s
    (d = 0 → classify (some h) jump s = .duplicate) ∧
    (1 ≤ d → d ≤ jump → classify (some h) jump s = .new) ∧
    (jump + 1 ≤ d → d ≤ 32767 → classify (some h) jump s = .leap) ∧
    (32768 ≤ d → 65536 - d ≤ 31 → h.accepts s = true → classify (some h) jump s = .duplicate) ∧
    (32768 ≤ d → 65536 - d ≤ 31 → h.accepts s = false → classify (some h) jump s = .new) ∧
    (32768 ≤ d → 32 ≤ 65536 - d → classify (some h) jump s = .stale)) ∧
  ∀ (st : Stream) (s : Word16) (mark : Option FPort),
    (st.history = none → st.record s mark = { st with history := some ⟨s, [⟨s, mark⟩]⟩, candidate := none }) ∧
    ∀ h, st.history = some h → h.Sound →
      (∀ h', (st.record s mark).history = some h' → h'.Sound) ∧
      (1 ≤ distance h.top s → distance h.top s ≤ 32767 →
        ∃ h', (st.record s mark).history = some h' ∧ h'.top = s ∧ (st.record s mark).candidate = none ∧
          ∀ m, m ∈ h'.members ↔ m = ⟨s, mark⟩ ∨ (m ∈ h.members ∧ distance m.seq s ≤ 31)) ∧
      (32768 ≤ distance h.top s → 65536 - distance h.top s ≤ 31 → h.accepts s = false →
        ∃ h', (st.record s mark).history = some h' ∧ h'.top = h.top ∧ (st.record s mark).candidate = none ∧
          ∀ m, m ∈ h'.members ↔ m = ⟨s, mark⟩ ∨ m ∈ h.members) ∧
      (distance h.top s = 0 ∨ h.accepts s = true ∨ (32768 ≤ distance h.top s ∧ 32 ≤ 65536 - distance h.top s) →
        st.record s mark = st)

/-- A DUPLICATE copy is dropped and counted once: LATE_TWIN, its mark removed, when the matched member's mark names its
port, else DUPLICATE; a STALE copy counts STALE; a damaged LEAP copy counts LEAP (R26, R27, R35). -/
def Obligations.CopyDroppedByClass : Prop :=  ∀ (s : State) (p : FPort) (k : Fin 64) (st : Stream) (r : Reception), CopyEnds s p k st r →
    NotPending s k (frameSeq r.bytes) →
    let cls := classify st.history st.cfg.jumpLimit.toNat (frameSeq r.bytes)
    let u := (s.copyChecked p k st r).returnCells r.cells
    (cls = .duplicate → lateTwin st.history (frameSeq r.bytes) p = true → Settles (.frameReceived (portOf p)) s
      (u.mapStream k (fun x => Stream.bump .lateTwin
        { x with history := x.history.map (clearMark (frameSeq r.bytes)) }))) ∧
    (cls = .duplicate → lateTwin st.history (frameSeq r.bytes) p = false →
      Settles (.frameReceived (portOf p)) s (u.bumpStream k .duplicate)) ∧
    (cls = .stale → Settles (.frameReceived (portOf p)) s (u.bumpStream k .stale)) ∧
    (cls = .leap → (copyOf p k st r).allGood = false →
      Settles (.frameReceived (portOf p)) s (u.bumpStream k .leap))

/-- A damaged NEW copy is held in the lowest FREE repair slot when its stream waits for twins, the other link is UP and
the other path is not LOST; its sequence is not recorded (R44, R45). With no FREE repair slot it counts REPAIR_FULL, raises
the fault and is resolved at once; when one of the three tests fails it is resolved at once (R45). -/
def Obligations.DamagedCopyHeld : Prop :=  ∀ (s : State) (p : FPort) (k : Fin 64) (st : Stream) (r : Reception), CopyEnds s p k st r →
    NotPending s k (frameSeq r.bytes) →
    classify st.history st.cfg.jumpLimit.toNat (frameSeq r.bytes) = .new → (copyOf p k st r).allGood = false →
    let v := s.copyChecked p k st r
    let x : Subject := { slot := k, seq := frameSeq r.bytes, via := p, good := (copyOf p k st r).good, merged := false,
                         mark := none, frame := ⟨r.bytes, r.cells⟩ }
    (st.cfg.twinWait ≠ 0#16 → s.linkUp (portOf (otherPort p)) = true → (st.path (otherPort p)).isLost = false →
      (∀ q, LowestFree s q → Settles (.frameReceived (portOf p)) s (v.setHeld q (some
        { slot := k, seq := frameSeq r.bytes, port := p, count := frameCount r.bytes,
          good := (copyOf p k st r).good, frame := ⟨r.bytes, r.cells⟩, wait := st.cfg.twinWait }))) ∧
      ((∀ q, s.held q ≠ none) → Settles (.frameReceived (portOf p)) s
        (((v.bumpGlobal .repairFull).raiseFault
          { kind := .repairFull, port := some (portOf p), fieldId := some st.cfg.fieldId,
            seq := some (frameSeq r.bytes) }).resolve x))) ∧
    (st.cfg.twinWait = 0#16 ∨ s.linkUp (portOf (otherPort p)) = false ∨ (st.path (otherPort p)).isLost = true →
      Settles (.frameReceived (portOf p)) s (v.resolve x))

/-- An all-good NEW copy, L being UP, policing passed and its class queue having room, is recorded and forwarded: the
rewritten frame joins its class queue, or starts at once, FORWARDED counts, and a policed stream has one credit less (R26, R61
to R73). -/
def Obligations.NewCopyForwarded : Prop :=  ∀ (s : State) (p : FPort) (k : Fin 64) (st : Stream) (r : Reception), CopyEnds s p k st r →
    NotPending s k (frameSeq r.bytes) →
    classify st.history st.cfg.jumpLimit.toNat (frameSeq r.bytes) = .new → (copyOf p k st r).allGood = true →
    s.linkUp .l = true → st.cfg.burst = 0#8 ∨ st.credits ≠ 0#8 →
    cellCount (s.queue (.cls st.cfg.cls)) + r.cells.length ≤ s.globals.limits[st.cfg.cls].toNat →
    Answers (.frameReceived (portOf p)) s (fun t =>
      (∃ st', t.stream k = some st' ∧ st'.history = (st.record (frameSeq r.bytes) none).history ∧
        st'.counter .forwarded = satInc 32 (st.counter .forwarded) ∧ st'.credits = (if st.cfg.burst = 0#8 then st.credits else st.credits - 1) ∧
        st'.path p = .up (some st.cfg.pathTimeout)) ∧
      (∀ j, j ≠ k → t.stream j = s.stream j) ∧ t.repair = s.repair ∧ t.faults = s.faults ∧ t.agent = s.agent ∧
      ∃ x : Queued, (x ∈ t.queue (.cls st.cfg.cls) ∨ (t.port .l).tx = some x) ∧ x.frame.cells = r.cells ∧
        x.frame.bytes = rewriteHeader r.bytes
          (flagByte false false false ((st.path (otherPort p)).isUp == false) p)
          (frameCount r.bytes) st.cfg.lineId (s.generation.setWidth 8))

/-- An all-good NEW copy that is recorded but not forwarded: LINE_DOWN while L is not UP, POLICED when its stream's credits
are 0, CLASS_FULL when its class queue has no room; a copy of a policed stream that passes policing has taken one credit
also when it is then dropped as CLASS_FULL (R62 to R64, R73). -/
def Obligations.NewCopyNotForwarded : Prop :=
  ∀ (s : State) (p : FPort) (k : Fin 64) (st : Stream) (r : Reception), CopyEnds s p k st r →
    NotPending s k (frameSeq r.bytes) →
    classify st.history st.cfg.jumpLimit.toNat (frameSeq r.bytes) = .new → (copyOf p k st r).allGood = true →
    let u := (s.copyChecked p k st r).mapStream k (Stream.record (frameSeq r.bytes) none)
    (s.linkUp .l = false →
      Settles (.frameReceived (portOf p)) s ((u.returnCells r.cells).bumpStream k .lineDown)) ∧
    (s.linkUp .l = true → st.cfg.burst ≠ 0#8 → st.credits = 0#8 →
      Settles (.frameReceived (portOf p)) s ((u.returnCells r.cells).bumpStream k .policed)) ∧
    (s.linkUp .l = true → st.cfg.burst = 0#8 ∨ st.credits ≠ 0#8 →
      s.globals.limits[st.cfg.cls].toNat < cellCount (s.queue (.cls st.cfg.cls)) + r.cells.length →
      Settles (.frameReceived (portOf p)) s
        ((((u.mapStream k (fun x => { x with credits := creditsAfter st })).returnCells r.cells).bumpStream k
          .classFull).bumpGlobal (.classFull st.cfg.cls)))

/-- The header sent on L: kind DATA, the received size code, count and sequence as given, the line stream id, flags, via
port and generation stamp, a sound header check, and the partitions as they stand (R70, R71, R72, R176). -/
def Obligations.RewrittenHeader : Prop :=  ∀ (f : List Byte) (flags : Byte) (n : Nat) (lineId : Id12) (stamp : Byte), 8 ≤ f.length → 1 ≤ n → n ≤ 16 →
    let g := rewriteHeader f flags n lineId stamp
    headerSound g = true ∧ frameKind g = some .data ∧ sizeOfCode (byteAt g 0) = sizeOfCode (byteAt f 0) ∧
      byteAt g 1 = flags ∧ frameCount g = n ∧ frameId g = lineId ∧ frameSeq g = frameSeq f ∧ byteAt g 6 = stamp ∧
      g.drop 8 = f.drop 8

/-- An all-good LEAP copy whose step brings the run to the resync run: the history becomes the one sequence, the
candidate goes, the stream's repair slots are discarded, RESYNC counts and LEAP does not (R32, R33, R56); fault, notice and
resolution follow in the order of R33. Table 2-5 below the resync run, each copy dropped as LEAP: the expected next one
extends the run; a twin of a counted copy changes nothing, whatever the resync run is now (the model's reading of R32 and R33,
log 24); any other starts the run afresh from itself, as the first one does (R32, R35). -/
def Obligations.LeapCopies : Prop :=  ∀ (s : State) (p : FPort) (k : Fin 64) (st : Stream) (r : Reception), CopyEnds s p k st r →
   NotPending s k (frameSeq r.bytes) →
   classify st.history st.cfg.jumpLimit.toNat (frameSeq r.bytes) = .leap → (copyOf p k st r).allGood = true →
   (∀ c, st.candidate = some c → c.port = p → c.next = frameSeq r.bytes → st.cfg.resyncRun.toNat ≤ c.run + 1 →
     Answers (.frameReceived (portOf p)) s (fun t =>
       (∃ st', t.stream k = some st' ∧
         st'.history = some ⟨frameSeq r.bytes, [⟨frameSeq r.bytes, none⟩]⟩ ∧ st'.candidate = none ∧
         st'.counter .resync = satInc 32 (st.counter .resync) ∧ st'.counter .leap = st.counter .leap) ∧
       (∀ q h, t.held q = some h → h.slot ≠ k) ∧ ∀ j, j ≠ k → t.stream j = s.stream j) ∧
     ∀ h, st.history = some h → Settles (.frameReceived (portOf p)) s
       (((((((s.copyChecked p k st r).mapStream k (fun y => { y with history := none, candidate := none })).discardStream
         k).bumpStream k .resync).raiseFault
         { kind := .streamResync, port := some (portOf p), fieldId := some st.cfg.fieldId,
           seq := some (frameSeq r.bytes) }).raiseNotice
         (.streamResync k st.cfg.fieldId p h.top (frameSeq r.bytes))).resolve
         { slot := k, seq := frameSeq r.bytes, via := p, good := (copyOf p k st r).good, merged := false, mark := none,
           frame := ⟨r.bytes, r.cells⟩ })) ∧
   let u := fun x : Candidate => (((s.copyChecked p k st r).mapStream k (fun y =>
     { y with candidate := some x })).returnCells r.cells).bumpStream k .leap
   (∀ c, st.candidate = some c → c.port = p → c.next = frameSeq r.bytes → c.run + 1 < st.cfg.resyncRun.toNat →
     Settles (.frameReceived (portOf p)) s (u ⟨p, frameSeq r.bytes + 1, c.run + 1⟩)) ∧
   (∀ c, st.candidate = some c → c.port = otherPort p → 1 ≤ distance (frameSeq r.bytes) c.next →
     distance (frameSeq r.bytes) c.next ≤ c.run → Settles (.frameReceived (portOf p)) s (u c)) ∧
   (∀ c, st.candidate = some c → (c.port = p → c.next ≠ frameSeq r.bytes) →
     (c.port = otherPort p →
       ¬(1 ≤ distance (frameSeq r.bytes) c.next ∧ distance (frameSeq r.bytes) c.next ≤ c.run)) →
     1 < st.cfg.resyncRun.toNat → Settles (.frameReceived (portOf p)) s (u ⟨p, frameSeq r.bytes + 1, 1⟩)) ∧
   (st.candidate = none → 1 < st.cfg.resyncRun.toNat →
     Settles (.frameReceived (portOf p)) s (u ⟨p, frameSeq r.bytes + 1, 1⟩))

/-- A resolution, step by step, of any copy or merged frame of a non-FREE slot (R61, Table 4-2): the sequence is recorded (R62);
the damage policy drops the frame, or hands it on whole, trimmed or marked (R57 to R60, Table 3-3); it is dropped as LINE_DOWN
while L is not UP (R63), as POLICED without credits (R64), as CLASS_FULL without room (R73); else it joins its class queue with
its header rewritten, and FORWARDED counts (R70 to R73). The flags: DAMAGED, TRIMMED, MERGED, SOLO, via port (R71). -/
def Obligations.Resolution : Prop :=
  (∀ (s : State) (x : Subject) (st : Stream), s.stream x.slot = some st →
    let v := s.mapStream x.slot (Stream.record x.seq x.mark)
    (∀ j, x.good[j]? = some false → (∀ i, i < j → x.good[i]? = some true) →
      st.cfg.policy = .whole ∨ (st.cfg.policy = .trim ∧ j = 0) →
      s.resolve x = ((v.returnCells x.frame.cells).bumpStream x.slot .damageDropped).raiseFault
        { kind := .damageDropped, port := some (portOf x.via), fieldId := some st.cfg.fieldId, seq := some x.seq,
          part := some j }) ∧
    ∀ w f n trimmed damaged, AfterPolicy v x st.cfg w f n trimmed damaged →
      (s.linkUp .l = false → s.resolve x = (w.returnCells f.cells).bumpStream x.slot .lineDown) ∧
      (s.linkUp .l = true → st.cfg.burst ≠ 0#8 → st.credits = 0#8 →
        s.resolve x = (w.returnCells f.cells).bumpStream x.slot .policed) ∧
      (s.linkUp .l = true → st.cfg.burst = 0#8 ∨ st.credits ≠ 0#8 →
        let u := w.mapStream x.slot (fun y => { y with credits := creditsAfter st })
        (s.globals.limits[st.cfg.cls].toNat < cellCount (s.queue (.cls st.cfg.cls)) + f.cells.length →
          s.resolve x = ((u.returnCells f.cells).bumpStream x.slot .classFull).bumpGlobal (.classFull st.cfg.cls)) ∧
        (cellCount (s.queue (.cls st.cfg.cls)) + f.cells.length ≤ s.globals.limits[st.cfg.cls].toNat →
          s.resolve x = (u.enqueue (.cls st.cfg.cls)
            ⟨⟨rewriteHeader f.bytes (flagByte damaged trimmed x.merged (decide (st.pathsUp < 2)) x.via) n st.cfg.lineId
              (s.generation.setWidth 8), f.cells⟩, .data⟩).bumpStream x.slot .forwarded))) ∧
  (∀ (damaged trimmed merged solo : Bool) (via : FPort),
    let b := flagByte damaged trimmed merged solo via
    b.getLsbD 0 = damaged ∧ b.getLsbD 1 = trimmed ∧ b.getLsbD 2 = merged ∧ b.getLsbD 3 = solo ∧
      b.getLsbD 4 = (via == .f1) ∧ b.getLsbD 5 = false ∧ b.getLsbD 6 = false ∧ b.getLsbD 7 = false)

/-! ### Faults and notices -/

/-- Every fault merges with an equal newest record, else is appended when fewer than 16 are held, else counts as
overflow; the append that makes 12 raises FAULTS_PENDING (R156, R157). A notice: not queued and not counted when its kind is
disabled, queued with the present count while fewer than 8 are held, else counted lost (R161). -/
def Obligations.LogTakesFaultsAndNotices : Prop :=
  (∀ (s : State) (f : FaultInfo),
     (∀ old r, s.faults = old ++ [r] → r.kind = f.kind → r.port = f.port → r.fieldId = f.fieldId →
       s.raiseFault f = { s with faults := old ++ [{ r with repeats := satInc 8 r.repeats, lastTime := s.count }] }) ∧
     ((∀ r, s.faults.getLast? = some r → ¬(r.kind = f.kind ∧ r.port = f.port ∧ r.fieldId = f.fieldId)) →
       let x : FaultRecord := { kind := f.kind, port := f.port, fieldId := f.fieldId, seq := f.seq, part := f.part,
                                firstTime := s.count, lastTime := s.count, repeats := 1#8 }
       (s.faults.length < 16 → s.faults.length ≠ 11 → s.raiseFault f = { s with faults := s.faults ++ [x] }) ∧
       (s.faults.length = 11 → s.raiseFault f = State.raiseNotice { s with faults := s.faults ++ [x] } .faultsPending) ∧
       (16 ≤ s.faults.length → s.raiseFault f = { s with overflow := satInc 16 s.overflow }))) ∧
  (∀ (s : State) (b : NoticeBody),
     (noticeEnabled s.globals b = false → s.raiseNotice b = s) ∧
     (noticeEnabled s.globals b = true → s.notices.length < 8 →
       s.raiseNotice b = { s with notices := s.notices ++ [⟨b, s.count⟩] }) ∧
     (noticeEnabled s.globals b = true → 8 ≤ s.notices.length →
       s.raiseNotice b = State.bumpGlobal { s with noticesLost := satInc 16 s.noticesLost } .noticesLost))

/-! ### Timers -/

/-- The wait expiry of a held copy: the slot is freed and the copy resolved alone, via its port, its sequence recorded with a
late-twin mark naming the other port (R51). Under WHOLE with a bad partition it is dropped as DAMAGE_DROPPED with its fault
(R58). What is not dropped under WHOLE, TRIM or MARK is forwarded when L is UP, policing passes and the class queue has room:
under TRIM the partitions before the first bad one, their count and the flag TRIMMED; under MARK all, with the flag DAMAGED (R57
to R60, R70, R71). What each damage policy makes of a good-map (Table 3-3). -/
def Obligations.WaitExpiryAndPolicies : Prop :=
  (∀ (s : State) (q : Fin 8) (h : Held), s.phase = .running → s.held q = some h →
     let x : Subject := { slot := h.slot, seq := h.seq, via := h.port, good := h.good, merged := false,
                          mark := some (otherPort h.port), frame := h.frame }
     Settles (.waitTimerRunOut q) s ((s.setHeld q none).resolve x) ∧
     ∀ st, s.stream h.slot = some st →
       let v := (s.setHeld q none).mapStream h.slot (Stream.record h.seq (some (otherPort h.port)))
       (∀ j, st.cfg.policy = .whole → lowestBad h.good = some j →
         Settles (.waitTimerRunOut q) s
           (((v.returnCells h.frame.cells).bumpStream h.slot .damageDropped).raiseFault
             { kind := .damageDropped, port := some (portOf h.port), fieldId := some st.cfg.fieldId, seq := some h.seq,
               part := some j })) ∧
       ∀ w f n trimmed damaged, AfterPolicy v x st.cfg w f n trimmed damaged → s.linkUp .l = true →
         st.cfg.burst = 0#8 ∨ st.credits ≠ 0#8 →
         cellCount (s.queue (.cls st.cfg.cls)) + f.cells.length ≤ s.globals.limits[st.cfg.cls].toNat →
         Settles (.waitTimerRunOut q) s
           (((w.mapStream h.slot (fun y => { y with credits := creditsAfter st })).enqueue (.cls st.cfg.cls)
             ⟨⟨rewriteHeader f.bytes (flagByte damaged trimmed false (decide (st.pathsUp < 2)) h.port) n st.cfg.lineId
               (s.generation.setWidth 8), f.cells⟩, .data⟩).bumpStream h.slot .forwarded)) ∧
  (∀ good : List Bool,
     (good.all id = true → ∀ pol, policyOutcome pol good = .whole) ∧
     ∀ j, good[j]? = some false → (∀ i, i < j → good[i]? = some true) →
       policyOutcome .whole good = .dropped j ∧
       policyOutcome .trim good = (if j = 0 then .dropped 0 else .trimmed j) ∧ policyOutcome .mark good = .marked)

/-- A path timer's run-out: LOST at the present count, PATH_LOST raised, nothing else (R78, R85). An interval timer's: credits
become burst, the timer starts with the interval then held (R66). The lease timer's: lease free, staging and cache emptied,
SESSION_EXPIRED raised (R124). The millisecond count increments and wraps from 4294967295 to 0, through the load too (R154). -/
def Obligations.TimersRunOut : Prop :=
  (∀ (s : State) (k : Fin 64) (p : FPort) (st : Stream) (d : Byte), s.phase = .running → s.stream k = some st →
     st.suspended = false → st.path p = .up (some d) →
     Settles (.pathTimerRunOut k p) s
       ((s.setSlot k (some { st with paths := st.paths.set p (.lost s.count) })).raiseNotice
         (.pathLost k st.cfg.fieldId p d s.count))) ∧
  (∀ (s : State) (k : Fin 64) (st : Stream) (d : Byte), s.phase = .running → s.stream k = some st →
     st.suspended = false → st.intervalTimer = some d →
     Settles (.intervalTimerRunOut k) s
       (s.setSlot k (some { st with credits := st.cfg.burst, intervalTimer := some st.cfg.interval }))) ∧
  (∀ (s : State) (m : Word16) (d : Byte), s.phase = .running → s.agent.lease = some ⟨m, some d⟩ →
     Settles .leaseTimerRunOut s
       (State.raiseNotice { s with agent := { s.agent with lease := none, cache := none }, staging := [] }
         (.sessionExpired m))) ∧
  (∀ s : State, s.phase = .running ∨ s.phase = .loading →
     exec .millisecondCountTick s = .next { s with count := s.count + 1, uptime := s.uptime + 1 })

/-! ### Egress -/

/-- TRANSMISSION_START: L takes the head of the lane, or else of the lowest-numbered class queue that lists a frame; a
field port the head of its command queue (R96, R110, R112). -/
def Obligations.ArbiterPriority : Prop :=  ∀ (s : State) (x : Queued) (rest : List Queued), s.phase = .running →
    (s.linkUp .l = true → (s.port .l).tx = none → s.notices = [] →
      (s.lane = x :: rest → Answers (.transmissionStart .l) s (fun t =>
        (t.port .l).tx = some x ∧ t.lane = rest ∧ t.classes = s.classes)) ∧
      ∀ c : Fin 4, s.lane = [] → (∀ c', c' < c → s.queue (.cls c') = []) → s.queue (.cls c) = x :: rest →
        Answers (.transmissionStart .l) s (fun t =>
          (t.port .l).tx = some x ∧ t.lane = [] ∧ t.queue (.cls c) = rest ∧
            ∀ c', c' ≠ c → t.queue (.cls c') = s.queue (.cls c'))) ∧
    ∀ p : FPort, s.linkUp (portOf p) = true → (s.port (portOf p)).tx = none → s.command.get p = x :: rest →
      Answers (.transmissionStart (portOf p)) s (fun t =>
        (t.port (portOf p)).tx = some x ∧ t.command.get p = rest)

/-- TRANSMISSION_END: FRAMES_SENT counts and the cells return; those of a frame shared with the other field port only
when that port does not hold it; the end of the response of a pending FULL reset takes the reset (R96, R103, R135). -/
def Obligations.TransmissionEnds : Prop :=  ∀ (s : State) (x : Queued), s.phase = .running →
    ((s.port .l).tx = some x → (isResetResponse x && s.agent.fullPending) = false →
      Settles (.transmissionEnd .l) s
        (((s.setPort .l { s.port .l with tx := none, lastEnd := some .endMarker }).returnCells x.frame.cells).bumpPort
          .l .framesSent)) ∧
    ((s.port .l).tx = some x → isResetResponse x = true → s.agent.fullPending = true → s.op.job? = none →
      Answers (.transmissionEnd .l) s (FreshPart s)) ∧
    ∀ p : FPort, (s.port (portOf p)).tx = some x → isResetResponse x = false →
      let u := s.setPort (portOf p) { s.port (portOf p) with tx := none, lastEnd := some .endMarker }
      (s.portHolds (otherPort p) x.frame = false → Settles (.transmissionEnd (portOf p)) s
        ((u.returnCells x.frame.cells).bumpPort (portOf p) .framesSent)) ∧
      (s.portHolds (otherPort p) x.frame = true → Settles (.transmissionEnd (portOf p)) s
        (u.bumpPort (portOf p) .framesSent))

/-- NOTICE_OFFER: the oldest record becomes a MGMT_NOTICE frame of one cell at the tail of the lane, under the next serial,
with the lost count, which is kept with the frame and becomes 0; it leaves the notice queue, and the next records, if any, are
offered in the same happening (R109, R162, R178). With L not UP, no free cell, or a full lane that
waits for a transmission on L, the records stay, and serial and lost count stand (R109). -/
def Obligations.NoticeOffered : Prop :=
  (∀ s : State, s.phase = .running →
    s.linkUp .l = false ∨ s.free = [] ∨ (16 ≤ cellCount s.lane ∧ (s.port .l).tx ≠ none) →
    Answers .noticeOffer s (fun t =>
      t.notices = s.notices ∧ t.serial = s.serial ∧ t.noticesLost = s.noticesLost)) ∧
  ∀ (s : State) (n : NoticeRecord) (more : List NoticeRecord) (c : CellId) (rest : List CellId), s.phase = .running →
    s.linkUp .l = true → s.notices = n :: more → cellCount s.lane + 1 ≤ 16 → s.free = c :: rest →
    Settles .noticeOffer s
      { s with
        serial := s.serial + 1, noticesLost := 0#16, notices := more, free := rest
        lane := s.lane ++ [⟨⟨mgmtFrame .mgmtNotice s.globals.station (s.serial + 1)
          ([noticeCode n.body] ++ be32 n.time ++ be16 s.noticesLost ++
            noticeContents s.faults.length s.overflow n.body), [c]⟩, .notice s.noticesLost⟩] }

/-! ### Requests -/

/-- The reads are answered OK with what they report: the response joins the tail of the lane, the agent's turn begins,
the holder's timer restarts and the holder's cache takes it, nothing else changes, and what the part does at once follows from there (R20, R108, R119, R120,
R121, R128, R129, R130, R132). -/
def Obligations.ReadsAnswered : Prop :=  ∀ (s : State) (m t : Word16), TakesAtOnce s m t →
    OnlyAnswered (.identify m t) s m t ([1#8, 0#8] ++ ([0x0C#8, 0x01#8] ++
      be16 (s.globals.station.setWidth 16) ++
      [imageCode s.imageState, if s.agent.lease.isSome = true then 1#8 else 0#8] ++ be16 s.generation ++ be32 s.count ++
      be16 ((s.agent.lease.map (fun l => l.holder)).getD 0#16) ++ [byteOf s.staging.length, operationCode s.op])) ∧
    (∀ slot : Byte, slot.toNat ≤ 63 → OnlyAnswered (.readEntry m t slot) s m t
      ([4#8, 0#8] ++ s.entryResults slot (Fin.ofNat 64 slot.toNat))) ∧
    (∀ slot : Byte, slot.toNat ≤ 63 → OnlyAnswered (.readStreamCounters m t slot 0#8) s m t
      ([5#8, 0#8] ++ [slot] ++ (s.streamCounters (Fin.ofNat 64 slot.toNat)).toList.flatMap be32)) ∧
    (∀ page : Byte, page.toNat ≤ 1 → OnlyAnswered (.readPortCounters m t 0#8 page) s m t
      ([6#8, 0#8] ++ s.portCounterResults page)) ∧
    ∀ first : Byte, first.toNat ≤ 15 → OnlyAnswered (.readStaging m t first) s m t
      ([10#8, 0#8] ++ s.stagingResults first.toNat)

/-- The clearing reads of the holder: every counter reported is set to 0 in the same take, no other (R129, R130).
READ_FAULTS of the holder removes and returns up to `n` oldest records with the overflow count, which becomes 0 (R131, R158). -/
def Obligations.ClearingReads : Prop :=
  (∀ (s : State) (m t : Word16), TakesAtOnce s m t → s.holds m = true → s.op = .idle →
     (∀ (slot : Byte) (k : Fin 64), slot.toNat = k.val → Answers (.readStreamCounters m t slot 1#8) s (fun u =>
       AgentOnly (s.mapStream k (fun st => { st with counters := Vector.replicate 21 0#32 })) u ∧
       Responded s u t ([5#8, 0#8] ++ [slot] ++ (s.streamCounters k).toList.flatMap be32))) ∧
     Answers (.readPortCounters m t 1#8 0#8) s (fun u =>
       AgentOnly { s with ports := ⟨{ s.ports.f0 with counters := Vector.replicate 7 0#32 },
         { s.ports.f1 with counters := Vector.replicate 7 0#32 },
         { s.ports.l with counters := Vector.replicate 7 0#32 }⟩ } u ∧
       Responded s u t ([6#8, 0#8] ++ s.portCounterResults 0#8)) ∧
     Answers (.readPortCounters m t 1#8 1#8) s (fun u =>
       AgentOnly { s with globalCtrs := Vector.replicate 21 0#32 } u ∧
       Responded s u t ([6#8, 0#8] ++ s.portCounterResults 1#8))) ∧
  (∀ (s : State) (m t : Word16) (n : Byte), TakesAtOnce s m t → s.holds m = true → s.op = .idle →
     1 ≤ n.toNat → n.toNat ≤ 6 →
     Answers (.readFaults m t n) s (fun u =>
       AgentOnly { s with faults := s.faults.drop n.toNat, overflow := 0#16 } u ∧
       Responded s u t ([7#8, 0#8] ++ ([byteOf (min n.toNat s.faults.length)] ++ be16 s.overflow ++
         (s.faults.take n.toNat).flatMap faultBytes))))

/-- OPEN_SESSION grants a free lease with its timer started and the cache emptied, renews the holder's, and is HELD for
another, whose lease stands; CLOSE_SESSION of the holder frees lease, staging and cache, and is NO_SESSION for another (R123,
R126). A renewal, as every request of the holder, repeated or not, restarts the lease timer with its full duration when it runs,
and leaves it stopped when it is stopped, as it is during an operation; CLOSE_SESSION, the requests that begin an operation and
a FULL reset apart, which have their own statements. A request of any other manager leaves lease and timer alone (R120, R123,
R124). -/
def Obligations.Sessions : Prop :=
  (∀ (s : State) (m t : Word16), TakesAtOnce s m t →
    (s.agent.lease = none → s.op = .idle → Answers (.openSession m t) s (fun u =>
      AgentOnly { s with agent := { s.agent with lease := some ⟨m, some s.globals.leaseTimeout⟩ } } u ∧
      u.agent.lease = some ⟨m, some s.globals.leaseTimeout⟩ ∧
      u.agent.cache = some ⟨t, [2#8, 0#8] ++ be16 m⟩ ∧ Responded s u t ([2#8, 0#8] ++ be16 m))) ∧
    (∀ timer, s.agent.lease = some ⟨m, timer⟩ → Answers (.openSession m t) s (fun u =>
      AgentOnly s u ∧ u.agent.lease = some ⟨m, timer.map (fun _ => s.globals.leaseTimeout)⟩ ∧
      u.agent.cache = some ⟨t, [2#8, 0#8] ++ be16 m⟩ ∧ Responded s u t ([2#8, 0#8] ++ be16 m))) ∧
    (∀ l, s.agent.lease = some l → l.holder ≠ m → s.op = .idle → Answers (.openSession m t) s (fun u =>
      AgentOnly s u ∧ u.agent.lease = some l ∧ u.agent.cache = s.agent.cache ∧
      Responded s u t ([2#8, 4#8] ++ be16 l.holder))) ∧
    (s.holds m = true → Answers (.closeSession m t) s (fun u =>
      AgentOnly { s with agent := { s.agent with lease := none }, staging := [] } u ∧
      u.agent.lease = none ∧ u.agent.cache = none ∧ Responded s u t [3#8, 0#8])) ∧
    (s.holds m = false → Answers (.closeSession m t) s (fun u => AgentOnly s u ∧ u.agent.lease = s.agent.lease ∧
      u.agent.cache = s.agent.cache ∧ Responded s u t [3#8, 3#8]))) ∧
  ∀ (s : State) (m t : Word16) (c : Instr) (q : Request) (l : Lease), AgentIdle s → Asks m t c q → 1 ≤ s.free.length →
    s.agent.lease = some l →
    (l.holder = m → s.cachedFor m t ≠ none ∨ q ∉ [.closeSession, .commit, .saveImage, .sealImage, .resetPart 2#8] →
      Answers c s (fun u => u.agent.lease = some ⟨m, l.timer.map (fun _ => s.globals.leaseTimeout)⟩)) ∧
    (l.holder ≠ m → Answers c s (fun u => u.agent.lease = some l))

/-- The staging requests of the holder: a record that passes its checks joins the end of the area, or replaces the
record of the same slot, or the globals record, in place; DISCARD_STAGING empties the area. Refused, in the order of the checks,
and changing nothing: BAD_ARGUMENT for an argument or a configuration out of its range, ENTRY_LOCKED for an action a lock
refuses, STAGING_FULL for a new record beyond 16 (R132, R137, R138, R139). -/
def Obligations.Staging : Prop :=  ∀ (s : State) (m t : Word16), TakesAtOnce s m t → s.holds m = true → s.op = .idle →
    (∀ (slot action present : Byte) (k : Fin 64) (act : Action) (rec : EntryRecord),
      slot.toNat = k.val → actionOfCode action = some act → present.toNat ≤ 1 →
      let fields := if present = 1#8 then some (entryFields rec) else none
      entryOk act fields = true → (refusedByLock act && (s.stream k).any (fun st => st.locked)) = false →
      ((∀ x ∈ s.staging, sameRecordTarget (.entry k act fields) x = false) → s.staging.length < 16 →
        Answers (.stageEntry m t slot action present rec) s (fun u =>
          AgentOnly { s with staging := s.staging ++ [.entry k act fields] } u ∧ Responded s u t [8#8, 0#8])) ∧
      (∀ a x b, s.staging = a ++ [x] ++ b → sameRecordTarget (.entry k act fields) x = true →
        (∀ y ∈ a ++ b, sameRecordTarget (.entry k act fields) y = false) →
        Answers (.stageEntry m t slot action present rec) s (fun u =>
          AgentOnly { s with staging := a ++ [.entry k act fields] ++ b } u ∧ Responded s u t [8#8, 0#8])) ∧
      ((∀ x ∈ s.staging, sameRecordTarget (.entry k act fields) x = false) → 16 ≤ s.staging.length →
        Answers (.stageEntry m t slot action present rec) s (fun u => AgentOnly s u ∧ Responded s u t [8#8, 5#8]))) ∧
    (∀ (slot action present : Byte) (rec : EntryRecord),
      (63 < slot.toNat ∨ actionOfCode action = none ∨ 1 < present.toNat →
        Answers (.stageEntry m t slot action present rec) s (fun u => AgentOnly s u ∧ Responded s u t [8#8, 7#8])) ∧
      ∀ (k : Fin 64) (act : Action), slot.toNat = k.val → actionOfCode action = some act → present.toNat ≤ 1 →
        let fields := if present = 1#8 then some (entryFields rec) else none
        (entryOk act fields = false →
          Answers (.stageEntry m t slot action present rec) s (fun u => AgentOnly s u ∧ Responded s u t [8#8, 7#8])) ∧
        (entryOk act fields = true → act = .modify ∨ act = .retire ∨ act = .suspend ∨ act = .resume →
          (s.stream k).any (fun st => st.locked) = true →
          Answers (.stageEntry m t slot action present rec) s (fun u =>
            AgentOnly s u ∧ Responded s u t [8#8, 6#8]))) ∧
    (∀ rec : GlobalsRecord, globalsOk (globalsFields rec) = true →
      (∀ x ∈ s.staging, sameRecordTarget (.globals (globalsFields rec)) x = false) → s.staging.length < 16 →
      Answers (.stageGlobals m t rec) s (fun u =>
        AgentOnly { s with staging := s.staging ++ [.globals (globalsFields rec)] } u ∧
        Responded s u t [9#8, 0#8])) ∧
    (∀ rec : GlobalsRecord, globalsOk (globalsFields rec) = true →
      (∀ a x b, s.staging = a ++ [x] ++ b → sameRecordTarget (.globals (globalsFields rec)) x = true →
        (∀ y ∈ a ++ b, sameRecordTarget (.globals (globalsFields rec)) y = false) →
        Answers (.stageGlobals m t rec) s (fun u =>
          AgentOnly { s with staging := a ++ [.globals (globalsFields rec)] ++ b } u ∧ Responded s u t [9#8, 0#8])) ∧
      ((∀ x ∈ s.staging, sameRecordTarget (.globals (globalsFields rec)) x = false) → 16 ≤ s.staging.length →
        Answers (.stageGlobals m t rec) s (fun u => AgentOnly s u ∧ Responded s u t [9#8, 5#8]))) ∧
    (∀ rec : GlobalsRecord, globalsOk (globalsFields rec) = false →
      Answers (.stageGlobals m t rec) s (fun u => AgentOnly s u ∧ Responded s u t [9#8, 7#8])) ∧
    Answers (.discardStaging m t) s (fun u => AgentOnly { s with staging := [] } u ∧ Responded s u t [11#8, 0#8])

/-- COMMIT, SAVE_IMAGE and SEAL_IMAGE of the holder begin their operation, answer STARTED and stop the lease timer
(R122, R124, R141, R170, R173); refused, changing nothing, they answer NOTHING_STAGED, IMAGE_SEALED or IMAGE_NOT_VALID (R133). A
save or seal targets the bank that is not the newest valid one, A when none is valid, under the newest one's save count + 1,
or 1; a save writes the live configuration with the mark clear, a seal the source's content with the mark set, each with its
check word (R166, R170, R173). -/
def Obligations.OperationsBegin : Prop :=
  (∀ (s : State) (m t : Word16), TakesAtOnce s m t → s.holds m = true → s.op = .idle →
    (s.staging ≠ [] → Answers (.commit m t) s (fun u =>
      AgentOnly { s with op := .commit s.staging m } u ∧ u.agent.lease = some ⟨m, none⟩ ∧
      Responded s u t [12#8, 1#8])) ∧
    (s.staging = [] → Answers (.commit m t) s (fun u => AgentOnly s u ∧ Responded s u t [12#8, 10#8])) ∧
    (s.imageState ≠ .sealed → Answers (.saveImage m t) s (fun u =>
      AgentOnly { s with op := .save (s.saveJob m) } u ∧ u.agent.lease = some ⟨m, none⟩ ∧
      Responded s u t [13#8, 1#8])) ∧
    (s.imageState = .sealed →
      Answers (.saveImage m t) s (fun u => AgentOnly s u ∧ Responded s u t [13#8, 11#8]) ∧
      Answers (.sealImage m t) s (fun u => AgentOnly s u ∧ Responded s u t [14#8, 11#8])) ∧
    (s.imageState = .valid → Answers (.sealImage m t) s (fun u =>
      AgentOnly { s with op := .seal (s.sealJob m) } u ∧ u.agent.lease = some ⟨m, none⟩ ∧
      Responded s u t [14#8, 1#8])) ∧
    (s.imageState = .blank ∨ s.imageState = .corrupt →
      Answers (.sealImage m t) s (fun u => AgentOnly s u ∧ Responded s u t [14#8, 12#8]))) ∧
  ∀ (s : State) (m : Word16),
    (∀ j, j = s.saveJob m ∨ j = s.sealJob m → j.phase = .erase ∧ j.manager = m ∧
      (newestBank s.banks = none → j.target = .a ∧ j.saveCount = 1#32) ∧
      ∀ bk, newestBank s.banks = some bk →
        j.target = otherBank bk ∧ j.saveCount = (s.banks.get bk).saveCount + 1) ∧
    (∃ content, (s.saveJob m).bytes = content ++ be32 (crc32 content) ∧ content.length = 1105 ∧
      content.take 17 = be32 (s.saveJob m).saveCount ++ [0#8] ++ be16 (s.globals.station.setWidth 16) ++
        s.globals.limits.toList.flatMap be16 ++ [s.globals.leaseTimeout, s.globals.enables.setWidth 8] ∧
      ∀ k : Fin 64, (content.drop (17 + 17 * k.val)).take 17 = match s.stream k with
        | none => List.replicate 17 0#8
        | some st => [if st.suspended = true then 2#8 else 1#8] ++ be16 (st.cfg.fieldId.setWidth 16) ++
            be16 (st.cfg.lineId.setWidth 16) ++ [partSizeByte st.cfg.size, policyCode st.cfg.policy] ++
            be16 st.cfg.twinWait ++ be16 st.cfg.jumpLimit ++ [st.cfg.resyncRun, st.cfg.pathTimeout,
            BitVec.ofNat 8 st.cfg.cls.val, st.cfg.burst, st.cfg.interval, 0#8]) ∧
    ∀ bk, newestBank s.banks = some bk → ∃ content, (s.sealJob m).bytes = content ++ be32 (crc32 content) ∧
      content = be32 (s.sealJob m).saveCount ++ [1#8] ++ ((s.banks.get bk).bytes.take 1105).drop 5

/-- A frame that fails the frame test is answered BAD_FRAME, which touches neither lease, timer nor cache, and an unknown
code UNKNOWN_REQUEST (R120). Every request that needs the lease is answered NO_SESSION when its manager does not hold it (R127).
While an operation is in progress every one of them, and an OPEN_SESSION of another manager, is answered BUSY (R122). A
refused request changes nothing, and neither NO_SESSION nor BUSY is cached (R121). A BAD_FRAME row with fewer free cells than
its frame needs is no take: it counts POOL_EMPTY of L with its fault (R91, R102; the model's row, log 6). -/
def Obligations.RequestsRefused : Prop :=
  (∀ (s : State) (m t : Word16), TakesAtOnce s m t →
     (∀ bytes : List Byte, requestFrameOk bytes = false → (bytes.length + 63) / 64 ≤ s.free.length →
       Answers (.badFrame bytes) s (fun u =>
         EgressOnly { s with agent := { s.agent with busy := true } } u ∧
         Responded s u (frameSeq bytes) [0#8, 8#8])) ∧
     (∀ bytes : List Byte, s.free.length < (bytes.length + 63) / 64 → Settles (.badFrame bytes) s
       ((s.bumpPort .l .poolEmpty).raiseFault { kind := .poolEmpty, port := some .l })) ∧
     (∀ code : Byte, 15 < code.toNat ∨ code = 0#8 → Answers (.unknownRequest m t code) s (fun u =>
       AgentOnly s u ∧ Responded s u t [code, 9#8])) ∧
     (∀ c code, NeedsLease m t c code →
       (s.holds m = false → s.op = .idle → Answers c s (fun u =>
         AgentOnly s u ∧ u.agent.cache = s.agent.cache ∧ Responded s u t [code, 3#8])) ∧
       (s.op ≠ .idle → Answers c s (fun u =>
         AgentOnly s u ∧ u.agent.cache = s.agent.cache ∧ Responded s u t [code, 2#8]))) ∧
     (s.holds m = false → s.op ≠ .idle → Answers (.openSession m t) s (fun u =>
       AgentOnly s u ∧ u.agent.cache = s.agent.cache ∧ Responded s u t [2#8, 2#8])))

/-- A request of the holder under the cached tag is answered with the cached response, as a new frame, and not executed (R120,
R121). RESPONSE_DROPPED: a response that the lane or the pool has no room for is dropped and counted, a repeated one and a fresh
one alike; the request's effects stand, and the cache keeps the response (R108, R121). A request of one cell finds the cell of a
response of one cell, its own (R108). -/
def Obligations.ResponseCache : Prop :=
  (∀ (s : State) (m t : Word16) (c : Instr) (q : Request) (content : List Byte), AgentIdle s → Asks m t c q →
     s.holds m = true → s.agent.cache = some ⟨t, content⟩ →
     let cells := (8 + 34 * max 1 ((content.length + 31) / 32) + 63) / 64
     (cellCount s.lane + cells ≤ 16 → cells ≤ s.free.length →
       Answers c s (fun u => AgentOnly s u ∧ u.agent.cache = s.agent.cache ∧ Responded s u t content)) ∧
     (16 < cellCount s.lane + cells ∨ s.free.length < cells → 1 ≤ s.free.length → Answers c s (fun u =>
       AgentOnly (s.bumpGlobal .responseDropped) u ∧ u.agent.cache = s.agent.cache))) ∧
  (∀ (s : State) (m t : Word16), AgentIdle s → s.cachedFor m t = none → 1 ≤ s.free.length →
     let identity := [1#8, 0#8] ++ s.identifyResults
     (cellCount s.lane + 1 ≤ 16 → Answers (.identify m t) s (fun u => AgentOnly s u ∧ Responded s u t identity)) ∧
     (16 ≤ cellCount s.lane → Answers (.identify m t) s (fun u => AgentOnly (s.bumpGlobal .responseDropped) u ∧
       (s.holds m = true → u.agent.cache = some ⟨t, identity⟩))) ∧
     (s.free.length ≤ 2 → Answers (.readPortCounters m t 0#8 0#8) s (fun u =>
       AgentOnly (s.bumpGlobal .responseDropped) u ∧
       (s.holds m = true → u.agent.cache = some ⟨t, [6#8, 0#8] ++ s.portCounterResults 0#8⟩))) ∧
     (16 ≤ cellCount s.lane → s.holds m = true → s.op = .idle → ∀ n : Byte, 1 ≤ n.toNat → n.toNat ≤ 6 →
       Answers (.readFaults m t n) s (fun u =>
         AgentOnly (State.bumpGlobal { s with faults := s.faults.drop n.toNat, overflow := 0#16 } .responseDropped) u ∧
         u.agent.cache = some ⟨t, [7#8, 0#8] ++ s.faultResults n.toNat⟩)))

/-- RESET_PART TRAFFIC of the holder (R19, R56, R68, R84, R97, R101, R111, R134, R164): histories, candidates, repair slots,
queues, receptions and transmissions are emptied, paths FRESH, credits burst, interval timers started afresh; each held copy
counts DISCARDED; the lost counts kept with released notice frames are added back; table, every other counter, globals, staging
and faults stand; OK. The lane then holds the OK response alone, in one of the 256 cells (which one is the model's choice,
log 17), every transmission is ended with an abort marker (seen in lastEnd, log 20), and what follows at once starts from there: what is then in the lane or in transmission on L is the response or the
frame of a notice record that waited, under a serial of its own. -/
def Obligations.TrafficReset : Prop :=  ∀ (s : State) (m t : Word16), TakesAtOnce s m t → s.holds m = true → s.op = .idle →
    let response := mgmtFrame .mgmtRsp s.globals.station t [15#8, 0#8]
    Answers (.resetPartTraffic m t) s (fun u =>
      (∀ k, (u.stream k).isSome = (s.stream k).isSome) ∧
      (∀ k st, s.stream k = some st → ∃ st', u.stream k = some st' ∧ st'.cfg = st.cfg ∧ st'.locked = st.locked ∧
        st'.suspended = st.suspended ∧ st'.history = none ∧ st'.candidate = none ∧ st'.paths = ⟨.fresh, .fresh⟩ ∧
        st'.credits = st.cfg.burst ∧
        st'.intervalTimer = (if st.suspended = true ∨ st.cfg.burst = 0#8 then none else some st.cfg.interval) ∧
        st'.counter .discarded =
          (satInc 32)^[(allRepair.filter (fun q => (s.held q).any (fun h => h.slot == k))).length]
            (st.counter .discarded) ∧
        ∀ c, c ≠ .discarded → st'.counter c = st.counter c) ∧
      (∀ q, u.held q = none) ∧ (∀ p, (u.port p).link = (s.port p).link ∧ (u.port p).reception = none) ∧
      (∀ p : FPort, (u.port (portOf p)).tx = none ∧ u.command.get p = []) ∧ (∀ c, u.queue (.cls c) = []) ∧
      (∀ p, (u.port p).lastEnd = if (s.port p).tx.isSome = true then some .abortMarker else (s.port p).lastEnd) ∧
      (∃ v : State, u = v.settle ∧ v.lane = [⟨⟨response, allCells.take 1⟩, .response false⟩] ∧
        v.free = allCells.drop 1 ∧ (∀ p, (v.port p).tx = none) ∧ v.notices = s.notices ∧ v.serial = s.serial) ∧
      (∀ x, OnItsWay u x → x.frame.bytes = response ∨
        ∃ i n lost, s.notices[i]? = some n ∧ x.frame.bytes = mgmtFrame .mgmtNotice s.globals.station
          (s.serial + 1 + BitVec.ofNat 16 i) ([noticeCode n.body] ++ be32 n.time ++ be16 lost ++
            noticeContents s.faults.length s.overflow n.body)) ∧
      (∀ p c, u.portCounter p c = s.portCounter p c) ∧ (∀ c, u.globalCounter c = s.globalCounter c) ∧
      (s.notices = [] ∨ s.linkUp .l = false → u.noticesLost.toNat = min 65535 (s.noticesLost.toNat +
        (((s.port .l).tx.toList ++ s.lane).map (fun x => (keptLost x.origin).toNat)).sum)) ∧
      u.generation = s.generation ∧ u.globals = s.globals ∧ u.staging = s.staging ∧ u.faults = s.faults ∧
      u.op = s.op ∧ u.banks = s.banks ∧
      (∀ timer, s.agent.lease = some ⟨m, timer⟩ →
        u.agent.lease = some ⟨m, timer.map (fun _ => s.globals.leaseTimeout)⟩) ∧
      u.agent.cache = some ⟨t, [15#8, 0#8]⟩ ∧
      Responded s u t [15#8, 0#8])

/-- RESET_PART FULL of the holder: with L UP its OK response is placed and a FULL reset becomes pending; else the reset
is taken at once (R135). -/
def Obligations.FullResetRequested : Prop :=  ∀ (s : State) (m t : Word16), TakesAtOnce s m t → s.holds m = true → s.op = .idle →
    (s.linkUp .l = true → Answers (.resetPartFull m t) s (fun u =>
      AgentOnly { s with agent := { s.agent with fullPending := true } } u ∧ Responded s u t [15#8, 0#8])) ∧
    (s.linkUp .l = false → Answers (.resetPartFull m t) s (FreshPart s))

/-- The frame of a request carries exactly its manager id, tag and request, in 42 bytes that pass the frame test (R92,
R120, R176, R177). -/
def Obligations.RequestFramesDecode : Prop :=  ∀ (s : State) (m t : Word16) (q : Request),
    (∀ code, q = .unknown code → 15 < code.toNat ∨ code = 0#8) →
    let f := s.requestFrame m t q
    f.length = 42 ∧ headerSound f = true ∧ frameKind f = some .mgmtReq ∧ frameId f = s.globals.station ∧
      frameSeq f = t ∧ requestFrameOk f = true ∧ managerOfPayload (mgmtPayload f) = m ∧
      requestOfPayload (mgmtPayload f) = q

/-! ### Operations and the retained image -/

/-- R144: a commit that fails validation ends REJECTED. -/
def Obligations.RejectedCommitEnd : Prop :=  ∀ (s : State) (records : List Staged) (m : Word16) (i : Nat) (reason : CommitReason), s.phase = .running →
    s.op = .commit records m → s.validate records = .rejected i reason →
    Settles .commitEnd s
      (State.raiseNotice { s with
        op := .idle
        agent := { s.agent with
          lease := s.agent.lease.map (fun l => ⟨l.holder, some s.globals.leaseTimeout⟩) } }
        (.commitDone (.rejected i reason) s.generation records.length m))

/-- Table 9-2: why a record of a set fails, its conditions in their order, against the table the whole set would make; and when
it passes (R10, R142, R143). The configuration of a slot in that table: its record's, none after a RETIRE, else its present one.
The records are tested in index order, and the first that fails rejects the set with its index (R142, R144). -/
def Obligations.Validation : Prop :=
  (∀ (s : State) (l : List Staged) (k : Fin 64) (act : Action) (f : Option EntryFields),
    let v := s.testRecord l (.entry k act f)
    (act = .install → s.stream k ≠ none → v = some .slotState) ∧
    (act ≠ .install → s.stream k = none → v = some .slotState) ∧
    (∀ st, s.stream k = some st → act = .resume → st.suspended = false → v = some .slotState) ∧
    (∀ st, s.stream k = some st → st.locked = true →
      act = .modify ∨ act = .retire ∨ act = .suspend ∨ (act = .resume ∧ st.suspended = true) →
      v = some .entryLocked) ∧
    (∀ st, s.stream k = some st →
      act = .lock ∨ (st.locked = false ∧ (act = .retire ∨ act = .suspend ∨ (act = .resume ∧ st.suspended = true))) →
      v = none) ∧
    (∀ fs c st, act = .modify → f = some fs → configOf fs = some c → s.stream k = some st → st.locked = false →
      st.cfg.fieldId ≠ c.fieldId → v = some .fieldIdChanged) ∧
    ∀ fs c, (act = .install ∧ s.stream k = none ∨
        act = .modify ∧ ∃ st, s.stream k = some st ∧ st.locked = false ∧ st.cfg.fieldId = c.fieldId) →
      f = some fs → configOf fs = some c →
      let others := fun (same : StreamConfig → Prop) => ∃ j d, j ≠ k ∧ s.resultingConfig l j = some d ∧ same d
      (others (fun d => d.fieldId = c.fieldId) → v = some .fieldIdTaken) ∧
      (¬ others (fun d => d.fieldId = c.fieldId) → others (fun d => d.lineId = c.lineId) → v = some .lineIdTaken) ∧
      (¬ others (fun d => d.fieldId = c.fieldId) → ¬ others (fun d => d.lineId = c.lineId) → v = none)) ∧
  (∀ (s : State) (l : List Staged) (j : Fin 64),
    ((∀ act f, .entry j act f ∉ l) → s.resultingConfig l j = (s.stream j).map (fun st => st.cfg)) ∧
    ∀ a act f b, l = a ++ [.entry j act f] ++ b → (∀ act' f', .entry j act' f' ∉ a) →
      s.resultingConfig l j =
        if act = .install ∨ act = .modify then f.bind configOf
        else if act = .retire then none else (s.stream j).map (fun st => st.cfg)) ∧
  ∀ (s : State) (l : List Staged),
    (∀ f, s.testRecord l (.globals f) = none) ∧
    ((∀ x ∈ l, s.testRecord l x = none) → s.validate l = .applied) ∧
    ∀ a x b reason, l = a ++ [x] ++ b → (∀ y ∈ a, s.testRecord l y = none) → s.testRecord l x = some reason →
      s.validate l = .rejected a.length reason

/-- An APPLIED commit end: every record takes effect, in order; the generation increments, wrapping from 65535 to 1; the staging
area is emptied; the operation ends with the lease timer started afresh under the timeout then in force; COMMIT_DONE says
APPLIED (R12, R145, R150, R152). A globals record changes just the globals it carries. A slot record changes its slot by its
action (R146 to R149), and no other; a RETIRE, a SUSPEND and a MODIFY of the partition size discard the slot's held copies,
whose cells return, each counted DISCARDED where the stream stays (R55). -/
def Obligations.AppliedCommitEnd : Prop :=
  (∀ (s : State) (l : List Staged) (m : Word16), s.phase = .running → s.op = .commit l m → s.validate l = .applied →
    let u := l.foldl State.applyRecord s
    let generation : Word16 := if s.generation = 65535#16 then 1#16 else s.generation + 1
    Settles .commitEnd s (State.raiseNotice { u with
      generation := generation, staging := [], op := .idle
      agent := { s.agent with lease := s.agent.lease.map (fun x => ⟨x.holder, some u.globals.leaseTimeout⟩) } }
      (.commitDone .applied generation l.length m))) ∧
  (∀ (s : State) (f : GlobalsFields), s.applyRecord (.globals f) = { s with globals :=
    { station := (f.station.map (fun x => x.setWidth 12)).getD s.globals.station,
      limits := #v[f.limit0.getD s.globals.limits[0], f.limit1.getD s.globals.limits[1],
        f.limit2.getD s.globals.limits[2], f.limit3.getD s.globals.limits[3]],
      leaseTimeout := f.lease.getD s.globals.leaseTimeout, enables := f.enables.getD s.globals.enables } }) ∧
  ∀ (s : State) (k : Fin 64) (act : Action) (f : Option EntryFields),
    let t := s.applyRecord (.entry k act f)
    let discards := act = .retire ∨ act = .suspend ∨ (act = .modify ∧ ∃ fs c st, f = some fs ∧ configOf fs = some c ∧
      s.stream k = some st ∧ st.cfg.size ≠ c.size)
    let ofSlot := allRepair.filter (fun q => (s.held q).any (fun h => h.slot == k))
    t = { s with slots := t.slots, repair := t.repair, free := t.free } ∧
    (∀ j, j ≠ k → t.stream j = s.stream j) ∧
    (¬ discards → t.repair = s.repair ∧ t.free = s.free) ∧
    (discards → (∀ q, t.held q = if (s.held q).any (fun h => h.slot == k) = true then none else s.held q) ∧
      t.free = s.free ++ ofSlot.flatMap (fun q => (s.held q).toList.flatMap (fun h => h.frame.cells))) ∧
    (∀ fs c, act = .install → f = some fs → configOf fs = some c → t.stream k = some
      { suspended := (initialSuspended fs).getD false, locked := false, cfg := c, history := none,
        candidate := none, paths := ⟨.fresh, .fresh⟩, credits := c.burst,
        intervalTimer := if (initialSuspended fs).getD false = true ∨ c.burst = 0#8 then none else some c.interval,
        counters := Vector.replicate 21 0#32 }) ∧
    (act = .retire → t.stream k = none) ∧
    ∀ st, s.stream k = some st →
      (act = .lock → t.stream k = some { st with locked := true }) ∧
      (act = .resume → t.stream k = some { st with
        suspended := false, history := none, candidate := none, paths := ⟨.fresh, .fresh⟩, credits := st.cfg.burst,
        intervalTimer := if st.cfg.burst = 0#8 then none else some st.cfg.interval }) ∧
      (act = .suspend → ∃ st' : Stream, t.stream k = some { st with
        suspended := true, intervalTimer := none, paths := st'.paths, counters := st'.counters } ∧
        (∀ p, st'.path p = (match st.path p with
          | .up _ => .up none
          | .fresh => .fresh
          | .lost n => .lost n)) ∧
        st'.counter .discarded = (satInc 32)^[ofSlot.length] (st.counter .discarded) ∧
        ∀ c, c ≠ .discarded → st'.counter c = st.counter c) ∧
      ∀ fs c, act = .modify → f = some fs → configOf fs = some c → ∃ st' : Stream, t.stream k = some { st with
        cfg := c, counters := st'.counters
        credits := if st.credits.toNat ≤ c.burst.toNat then st.credits else c.burst
        intervalTimer := if st.suspended = true ∨ c.burst = 0#8 then none
          else if st.cfg.burst = 0#8 then some c.interval else st.intervalTimer } ∧
        st'.counter .discarded =
          (if st.cfg.size = c.size then st.counter .discarded
           else (satInc 32)^[ofSlot.length] (st.counter .discarded)) ∧
        ∀ c', c' ≠ .discarded → st'.counter c' = st.counter c'

/-- The erase phase ends with the target erased, the write phase with the content and its check word stored, every byte
of the target as the job has it; the other bank is not touched (R165, R166, R171, R173). -/
def Obligations.BankPhases : Prop :=  ∀ (s : State) (j : BankJob), s.phase = .running → s.op = .save j ∨ s.op = .seal j →
    (j.phase = .erase → Answers .bankEraseEnd s (fun t =>
      EgressOnly { s with banks := t.banks, op := t.op } t ∧ t.op.job? = some { j with phase := .write } ∧
      (∀ a, (t.banks.get j.target).read a = 0xFF#8) ∧
      t.banks.get (otherBank j.target) = s.banks.get (otherBank j.target))) ∧
    (j.phase = .write → Answers .bankWriteEnd s (fun t =>
      EgressOnly { s with banks := t.banks, op := t.op } t ∧ t.op.job? = some { j with phase := .readBack } ∧
      (∀ a, (t.banks.get j.target).read a = j.bytes.getD a 0xFF#8) ∧
      t.banks.get (otherBank j.target) = s.banks.get (otherBank j.target)))

/-- SAVE_END and SEAL_END after a read back that reads the job's bytes with a check word that agrees, whichever bytes the
operand reads afresh: the target is as read, the image state is derived from both banks, SAVE_DONE or SEAL_DONE says OK, and the
operation ends with the lease timer started afresh. After any other: the target is bad, as read when that is bad, the other bank
is not touched, SAVE_FAILED names the target, the image state is derived, the notice says FAILED, and the operation ends (R171,
R174). What the operand says of the bytes, and what a target holds that reads otherwise and yet not bad, is the model's choice
(log 15). -/
def Obligations.ReadBackEnds : Prop :=
  (∀ (s : State) (j : BankJob) (l : List (Nat × Byte)), s.phase = .running → j.phase = .readBack →
     (∀ x ∈ l, x.1 < 1109) → ((s.banks.get j.target).patch l).bytes = j.bytes → checkAgrees j.bytes = true →
     let b := s.banks.set j.target ((s.banks.get j.target).patch l)
     let ends := fun (body : NoticeBody) =>
       { State.raiseNotice { s with banks := b, imageState := imageStateOf b } body with
       op := .idle
       agent := { s.agent with
         lease := s.agent.lease.map (fun l => (⟨l.holder, some s.globals.leaseTimeout⟩ : Lease)) } }
     (s.op = .save j → Settles (.saveEnd l) s
       (ends (.saveDone true j.target j.saveCount (imageStateOf b) j.manager))) ∧
     (s.op = .seal j → Settles (.sealEnd l) s
       (ends (.sealDone true j.target j.saveCount (imageStateOf b) j.manager)))) ∧
  (∀ (s : State) (j : BankJob) (l : List (Nat × Byte)), s.phase = .running → j.phase = .readBack →
     (∀ x ∈ l, x.1 < 1109) → ((s.banks.get j.target).patch l).bytes ≠ j.bytes ∨ checkAgrees j.bytes = false →
     ∃ b : PerBank Memory, (b.get j.target).condition = .bad ∧
       (((s.banks.get j.target).patch l).condition = .bad → b.get j.target = (s.banks.get j.target).patch l) ∧
       b.get (otherBank j.target) = s.banks.get (otherBank j.target) ∧
       let v := State.raiseFault { s with banks := b, freeIx := s.freeIx + 1 }
         { kind := .saveFailed, seq := some (match j.target with
             | .a => 0#16
             | .b => 1#16) }
       let ends := fun (body : NoticeBody) => { State.raiseNotice { v with imageState := imageStateOf b } body with
         op := .idle
         agent := { s.agent with
           lease := s.agent.lease.map (fun l => (⟨l.holder, some s.globals.leaseTimeout⟩ : Lease)) } }
       (s.op = .save j → Settles (.saveEnd l) s
         (ends (.saveDone false j.target j.saveCount (imageStateOf b) j.manager))) ∧
       (s.op = .seal j → Settles (.sealEnd l) s
         (ends (.sealDone false j.target j.saveCount (imageStateOf b) j.manager))))

/-- Table 11-1: the image state two banks give, and the newest of two valid banks by their save counts around the circle of
2^32: bank B when its count is 1 to 2147483647 ahead, bank A else, also when the counts are equal or 2147483648 apart (R167). -/
def Obligations.ImageStates : Prop :=  ∀ b : PerBank Memory,
    (b.a.condition = .erased → b.b.condition = .erased → newestBank b = none ∧ imageStateOf b = .blank) ∧
    (b.a.condition ≠ .valid → b.b.condition ≠ .valid → (b.a.condition = .bad ∨ b.b.condition = .bad) →
      newestBank b = none ∧ imageStateOf b = .corrupt) ∧
    (b.a.condition = .valid → b.b.condition ≠ .valid → newestBank b = some .a) ∧
    (b.a.condition ≠ .valid → b.b.condition = .valid → newestBank b = some .b) ∧
    (b.a.condition = .valid → b.b.condition = .valid →
      let d := (b.b.saveCount.toNat + (4294967296 - b.a.saveCount.toNat)) % 4294967296
      newestBank b = if 1 ≤ d ∧ d ≤ 2147483647 then some .b else some .a) ∧
    ∀ bk, newestBank b = some bk → imageStateOf b = if (b.get bk).read 4 = 0#8 then .valid else .sealed

/-- What a save writes a load reads back: the written bank is valid with its save count and unsealed, and gives back the
station, the globals, and every slot with its state and configuration, UNLOCKED and with a fresh running state (R11,
R18, R169, R170, R179). -/
def Obligations.SaveThenLoad : Prop :=  ∀ (s : State) (n : Word32),
    let bank := Memory.ofBytes (withCheckWord (s.liveContent n 0#8))
    bank.condition = .valid ∧ bank.saveCount = n ∧ bank.sealedMark = false ∧ loadGlobals bank = s.globals ∧
    ∀ k, (loadSlots bank)[k] = (s.stream k).map (fun st =>
      { suspended := st.suspended, locked := false, cfg := st.cfg, history := none, candidate := none,
        paths := ⟨.fresh, .fresh⟩, credits := st.cfg.burst, intervalTimer := none,
        counters := Vector.replicate 21 0#32 })

/-! ### Invariants -/

/-- Every step keeps the bounds of the queues of records, and a generation from 1 on (R12, R118, R137, R155, R161). -/
def Obligations.BoundsKept : Prop :=  ∀ s t : State, s.Bounded → step s = .next t → t.Bounded

/-- Every step keeps both banks in canonical form within their 1109 bytes (R165, R179). -/
def Obligations.BanksKept : Prop :=  ∀ s t : State, s.BanksSound → step s = .next t → t.BanksSound

/-- Every step keeps what the part remembers: histories in the form of R21, no pending pair accepted, none held twice
(R21, R31, R44). -/
def Obligations.RemembersKept : Prop :=  ∀ s t : State, s.Remembers → step s = .next t → t.Remembers

/-- Every step keeps the law of the pool (R101): free cells and the cells held by receptions, repair slots, queues,
transmissions and requests, those of a frame shared by both field ports once, are together the 256 cells. -/
def Obligations.PoolKept : Prop :=  ∀ s t : State, s.PoolSound → step s = .next t → t.PoolSound ∧
    t.free.length + t.cellsHeld.length = 256

/-- Every step keeps the laws of the table: no two slots share a field or line stream id (R3), and no stream's credits exceed
its burst (R65). -/
def Obligations.TableKept : Prop :=  ∀ s t : State, s.TableSound → step s = .next t → t.TableSound

/-- A LOCKED slot's configuration, state and lock stand through every step, a reset apart: whatever step leaves the part
running (R10). -/
def Obligations.LockKept : Prop :=  ∀ (s t : State) (k : Fin 64) (st : Stream), step s = .next t → t.phase = .running →
    s.stream k = some st → st.locked = true →
    ∃ st', t.stream k = some st' ∧ st'.locked = true ∧ st'.cfg = st.cfg ∧ st'.suspended = st.suspended

/-- Once the image is sealed and no save or seal is in progress, no step changes a bank, and it stays so (R175). -/
def Obligations.SealedForGood : Prop :=  ∀ s t : State, s.SealedImage → step s = .next t → t.SealedImage ∧ t.banks = s.banks

/-- The reset state meets the invariants (R3, R12, R21, R44, R65, R101, R118, R137, R155, R161, R165). -/
def Obligations.ResetMeetsInvariants : Prop :=
  State.reset.Bounded ∧ State.reset.BanksSound ∧ State.reset.Remembers ∧ State.reset.PoolSound ∧ State.reset.TableSound
end

