-- ==== Sys2Proof/Laws/State.lean ====
section
/-! SUPPORT. What each update of the state leaves in each field: one lemma per field per update, so that no later
proof unfolds a record update. -/

namespace Sys2Proof.Machine

variable (s : State)

/-! ### `setPort` -/

@[simp] theorem State.setPort_phase (p : Port) (x : PortState) : (s.setPort p x).phase = s.phase := rfl
@[simp] theorem State.setPort_rstnLow (p : Port) (x : PortState) : (s.setPort p x).rstnLow = s.rstnLow := rfl
@[simp] theorem State.setPort_count (p : Port) (x : PortState) : (s.setPort p x).count = s.count := rfl
@[simp] theorem State.setPort_uptime (p : Port) (x : PortState) : (s.setPort p x).uptime = s.uptime := rfl
@[simp] theorem State.setPort_slots (p : Port) (x : PortState) : (s.setPort p x).slots = s.slots := rfl
@[simp] theorem State.setPort_generation (p : Port) (x : PortState) : (s.setPort p x).generation = s.generation := rfl
@[simp] theorem State.setPort_globals (p : Port) (x : PortState) : (s.setPort p x).globals = s.globals := rfl
@[simp] theorem State.setPort_repair (p : Port) (x : PortState) : (s.setPort p x).repair = s.repair := rfl
@[simp] theorem State.setPort_ports (p : Port) (x : PortState) : (s.setPort p x).ports = s.ports.set p x := rfl
@[simp] theorem State.setPort_free (p : Port) (x : PortState) : (s.setPort p x).free = s.free := rfl
@[simp] theorem State.setPort_lane (p : Port) (x : PortState) : (s.setPort p x).lane = s.lane := rfl
@[simp] theorem State.setPort_classes (p : Port) (x : PortState) : (s.setPort p x).classes = s.classes := rfl
@[simp] theorem State.setPort_command (p : Port) (x : PortState) : (s.setPort p x).command = s.command := rfl
@[simp] theorem State.setPort_agent (p : Port) (x : PortState) : (s.setPort p x).agent = s.agent := rfl
@[simp] theorem State.setPort_staging (p : Port) (x : PortState) : (s.setPort p x).staging = s.staging := rfl
@[simp] theorem State.setPort_op (p : Port) (x : PortState) : (s.setPort p x).op = s.op := rfl
@[simp] theorem State.setPort_faults (p : Port) (x : PortState) : (s.setPort p x).faults = s.faults := rfl
@[simp] theorem State.setPort_overflow (p : Port) (x : PortState) : (s.setPort p x).overflow = s.overflow := rfl
@[simp] theorem State.setPort_globalCtrs (p : Port) (x : PortState) : (s.setPort p x).globalCtrs = s.globalCtrs := rfl
@[simp] theorem State.setPort_notices (p : Port) (x : PortState) : (s.setPort p x).notices = s.notices := rfl
@[simp] theorem State.setPort_noticesLost (p : Port) (x : PortState) : (s.setPort p x).noticesLost = s.noticesLost := rfl
@[simp] theorem State.setPort_serial (p : Port) (x : PortState) : (s.setPort p x).serial = s.serial := rfl
@[simp] theorem State.setPort_banks (p : Port) (x : PortState) : (s.setPort p x).banks = s.banks := rfl
@[simp] theorem State.setPort_imageState (p : Port) (x : PortState) : (s.setPort p x).imageState = s.imageState := rfl
@[simp] theorem State.setPort_freeIx (p : Port) (x : PortState) : (s.setPort p x).freeIx = s.freeIx := rfl
@[simp] theorem State.setPort_pending (p : Port) (x : PortState) : (s.setPort p x).pending = s.pending := rfl

/-! ### `setSlot` -/

@[simp] theorem State.setSlot_phase (k : Fin 64) (x : Option Stream) : (s.setSlot k x).phase = s.phase := rfl
@[simp] theorem State.setSlot_rstnLow (k : Fin 64) (x : Option Stream) : (s.setSlot k x).rstnLow = s.rstnLow := rfl
@[simp] theorem State.setSlot_count (k : Fin 64) (x : Option Stream) : (s.setSlot k x).count = s.count := rfl
@[simp] theorem State.setSlot_uptime (k : Fin 64) (x : Option Stream) : (s.setSlot k x).uptime = s.uptime := rfl
@[simp] theorem State.setSlot_slots (k : Fin 64) (x : Option Stream) : (s.setSlot k x).slots = s.slots.set k.val x k.isLt := rfl
@[simp] theorem State.setSlot_generation (k : Fin 64) (x : Option Stream) : (s.setSlot k x).generation = s.generation := rfl
@[simp] theorem State.setSlot_globals (k : Fin 64) (x : Option Stream) : (s.setSlot k x).globals = s.globals := rfl
@[simp] theorem State.setSlot_repair (k : Fin 64) (x : Option Stream) : (s.setSlot k x).repair = s.repair := rfl
@[simp] theorem State.setSlot_ports (k : Fin 64) (x : Option Stream) : (s.setSlot k x).ports = s.ports := rfl
@[simp] theorem State.setSlot_free (k : Fin 64) (x : Option Stream) : (s.setSlot k x).free = s.free := rfl
@[simp] theorem State.setSlot_lane (k : Fin 64) (x : Option Stream) : (s.setSlot k x).lane = s.lane := rfl
@[simp] theorem State.setSlot_classes (k : Fin 64) (x : Option Stream) : (s.setSlot k x).classes = s.classes := rfl
@[simp] theorem State.setSlot_command (k : Fin 64) (x : Option Stream) : (s.setSlot k x).command = s.command := rfl
@[simp] theorem State.setSlot_agent (k : Fin 64) (x : Option Stream) : (s.setSlot k x).agent = s.agent := rfl
@[simp] theorem State.setSlot_staging (k : Fin 64) (x : Option Stream) : (s.setSlot k x).staging = s.staging := rfl
@[simp] theorem State.setSlot_op (k : Fin 64) (x : Option Stream) : (s.setSlot k x).op = s.op := rfl
@[simp] theorem State.setSlot_faults (k : Fin 64) (x : Option Stream) : (s.setSlot k x).faults = s.faults := rfl
@[simp] theorem State.setSlot_overflow (k : Fin 64) (x : Option Stream) : (s.setSlot k x).overflow = s.overflow := rfl
@[simp] theorem State.setSlot_globalCtrs (k : Fin 64) (x : Option Stream) : (s.setSlot k x).globalCtrs = s.globalCtrs := rfl
@[simp] theorem State.setSlot_notices (k : Fin 64) (x : Option Stream) : (s.setSlot k x).notices = s.notices := rfl
@[simp] theorem State.setSlot_noticesLost (k : Fin 64) (x : Option Stream) : (s.setSlot k x).noticesLost = s.noticesLost := rfl
@[simp] theorem State.setSlot_serial (k : Fin 64) (x : Option Stream) : (s.setSlot k x).serial = s.serial := rfl
@[simp] theorem State.setSlot_banks (k : Fin 64) (x : Option Stream) : (s.setSlot k x).banks = s.banks := rfl
@[simp] theorem State.setSlot_imageState (k : Fin 64) (x : Option Stream) : (s.setSlot k x).imageState = s.imageState := rfl
@[simp] theorem State.setSlot_freeIx (k : Fin 64) (x : Option Stream) : (s.setSlot k x).freeIx = s.freeIx := rfl
@[simp] theorem State.setSlot_pending (k : Fin 64) (x : Option Stream) : (s.setSlot k x).pending = s.pending := rfl

/-! ### `mapAllStreams` -/

@[simp] theorem State.mapAllStreams_phase (f : Stream → Stream) : (s.mapAllStreams f).phase = s.phase := rfl
@[simp] theorem State.mapAllStreams_rstnLow (f : Stream → Stream) : (s.mapAllStreams f).rstnLow = s.rstnLow := rfl
@[simp] theorem State.mapAllStreams_count (f : Stream → Stream) : (s.mapAllStreams f).count = s.count := rfl
@[simp] theorem State.mapAllStreams_uptime (f : Stream → Stream) : (s.mapAllStreams f).uptime = s.uptime := rfl
@[simp] theorem State.mapAllStreams_slots (f : Stream → Stream) : (s.mapAllStreams f).slots = s.slots.map (Option.map f) := rfl
@[simp] theorem State.mapAllStreams_generation (f : Stream → Stream) : (s.mapAllStreams f).generation = s.generation := rfl
@[simp] theorem State.mapAllStreams_globals (f : Stream → Stream) : (s.mapAllStreams f).globals = s.globals := rfl
@[simp] theorem State.mapAllStreams_repair (f : Stream → Stream) : (s.mapAllStreams f).repair = s.repair := rfl
@[simp] theorem State.mapAllStreams_ports (f : Stream → Stream) : (s.mapAllStreams f).ports = s.ports := rfl
@[simp] theorem State.mapAllStreams_free (f : Stream → Stream) : (s.mapAllStreams f).free = s.free := rfl
@[simp] theorem State.mapAllStreams_lane (f : Stream → Stream) : (s.mapAllStreams f).lane = s.lane := rfl
@[simp] theorem State.mapAllStreams_classes (f : Stream → Stream) : (s.mapAllStreams f).classes = s.classes := rfl
@[simp] theorem State.mapAllStreams_command (f : Stream → Stream) : (s.mapAllStreams f).command = s.command := rfl
@[simp] theorem State.mapAllStreams_agent (f : Stream → Stream) : (s.mapAllStreams f).agent = s.agent := rfl
@[simp] theorem State.mapAllStreams_staging (f : Stream → Stream) : (s.mapAllStreams f).staging = s.staging := rfl
@[simp] theorem State.mapAllStreams_op (f : Stream → Stream) : (s.mapAllStreams f).op = s.op := rfl
@[simp] theorem State.mapAllStreams_faults (f : Stream → Stream) : (s.mapAllStreams f).faults = s.faults := rfl
@[simp] theorem State.mapAllStreams_overflow (f : Stream → Stream) : (s.mapAllStreams f).overflow = s.overflow := rfl
@[simp] theorem State.mapAllStreams_globalCtrs (f : Stream → Stream) : (s.mapAllStreams f).globalCtrs = s.globalCtrs := rfl
@[simp] theorem State.mapAllStreams_notices (f : Stream → Stream) : (s.mapAllStreams f).notices = s.notices := rfl
@[simp] theorem State.mapAllStreams_noticesLost (f : Stream → Stream) : (s.mapAllStreams f).noticesLost = s.noticesLost := rfl
@[simp] theorem State.mapAllStreams_serial (f : Stream → Stream) : (s.mapAllStreams f).serial = s.serial := rfl
@[simp] theorem State.mapAllStreams_banks (f : Stream → Stream) : (s.mapAllStreams f).banks = s.banks := rfl
@[simp] theorem State.mapAllStreams_imageState (f : Stream → Stream) : (s.mapAllStreams f).imageState = s.imageState := rfl
@[simp] theorem State.mapAllStreams_freeIx (f : Stream → Stream) : (s.mapAllStreams f).freeIx = s.freeIx := rfl
@[simp] theorem State.mapAllStreams_pending (f : Stream → Stream) : (s.mapAllStreams f).pending = s.pending := rfl

/-! ### `setHeld` -/

@[simp] theorem State.setHeld_phase (r : Fin 8) (x : Option Held) : (s.setHeld r x).phase = s.phase := rfl
@[simp] theorem State.setHeld_rstnLow (r : Fin 8) (x : Option Held) : (s.setHeld r x).rstnLow = s.rstnLow := rfl
@[simp] theorem State.setHeld_count (r : Fin 8) (x : Option Held) : (s.setHeld r x).count = s.count := rfl
@[simp] theorem State.setHeld_uptime (r : Fin 8) (x : Option Held) : (s.setHeld r x).uptime = s.uptime := rfl
@[simp] theorem State.setHeld_slots (r : Fin 8) (x : Option Held) : (s.setHeld r x).slots = s.slots := rfl
@[simp] theorem State.setHeld_generation (r : Fin 8) (x : Option Held) : (s.setHeld r x).generation = s.generation := rfl
@[simp] theorem State.setHeld_globals (r : Fin 8) (x : Option Held) : (s.setHeld r x).globals = s.globals := rfl
@[simp] theorem State.setHeld_repair (r : Fin 8) (x : Option Held) : (s.setHeld r x).repair = s.repair.set r.val x r.isLt := rfl
@[simp] theorem State.setHeld_ports (r : Fin 8) (x : Option Held) : (s.setHeld r x).ports = s.ports := rfl
@[simp] theorem State.setHeld_free (r : Fin 8) (x : Option Held) : (s.setHeld r x).free = s.free := rfl
@[simp] theorem State.setHeld_lane (r : Fin 8) (x : Option Held) : (s.setHeld r x).lane = s.lane := rfl
@[simp] theorem State.setHeld_classes (r : Fin 8) (x : Option Held) : (s.setHeld r x).classes = s.classes := rfl
@[simp] theorem State.setHeld_command (r : Fin 8) (x : Option Held) : (s.setHeld r x).command = s.command := rfl
@[simp] theorem State.setHeld_agent (r : Fin 8) (x : Option Held) : (s.setHeld r x).agent = s.agent := rfl
@[simp] theorem State.setHeld_staging (r : Fin 8) (x : Option Held) : (s.setHeld r x).staging = s.staging := rfl
@[simp] theorem State.setHeld_op (r : Fin 8) (x : Option Held) : (s.setHeld r x).op = s.op := rfl
@[simp] theorem State.setHeld_faults (r : Fin 8) (x : Option Held) : (s.setHeld r x).faults = s.faults := rfl
@[simp] theorem State.setHeld_overflow (r : Fin 8) (x : Option Held) : (s.setHeld r x).overflow = s.overflow := rfl
@[simp] theorem State.setHeld_globalCtrs (r : Fin 8) (x : Option Held) : (s.setHeld r x).globalCtrs = s.globalCtrs := rfl
@[simp] theorem State.setHeld_notices (r : Fin 8) (x : Option Held) : (s.setHeld r x).notices = s.notices := rfl
@[simp] theorem State.setHeld_noticesLost (r : Fin 8) (x : Option Held) : (s.setHeld r x).noticesLost = s.noticesLost := rfl
@[simp] theorem State.setHeld_serial (r : Fin 8) (x : Option Held) : (s.setHeld r x).serial = s.serial := rfl
@[simp] theorem State.setHeld_banks (r : Fin 8) (x : Option Held) : (s.setHeld r x).banks = s.banks := rfl
@[simp] theorem State.setHeld_imageState (r : Fin 8) (x : Option Held) : (s.setHeld r x).imageState = s.imageState := rfl
@[simp] theorem State.setHeld_freeIx (r : Fin 8) (x : Option Held) : (s.setHeld r x).freeIx = s.freeIx := rfl
@[simp] theorem State.setHeld_pending (r : Fin 8) (x : Option Held) : (s.setHeld r x).pending = s.pending := rfl

/-! ### `setAgent` -/

@[simp] theorem State.setAgent_phase (a : Agent) : (s.setAgent a).phase = s.phase := rfl
@[simp] theorem State.setAgent_rstnLow (a : Agent) : (s.setAgent a).rstnLow = s.rstnLow := rfl
@[simp] theorem State.setAgent_count (a : Agent) : (s.setAgent a).count = s.count := rfl
@[simp] theorem State.setAgent_uptime (a : Agent) : (s.setAgent a).uptime = s.uptime := rfl
@[simp] theorem State.setAgent_slots (a : Agent) : (s.setAgent a).slots = s.slots := rfl
@[simp] theorem State.setAgent_generation (a : Agent) : (s.setAgent a).generation = s.generation := rfl
@[simp] theorem State.setAgent_globals (a : Agent) : (s.setAgent a).globals = s.globals := rfl
@[simp] theorem State.setAgent_repair (a : Agent) : (s.setAgent a).repair = s.repair := rfl
@[simp] theorem State.setAgent_ports (a : Agent) : (s.setAgent a).ports = s.ports := rfl
@[simp] theorem State.setAgent_free (a : Agent) : (s.setAgent a).free = s.free := rfl
@[simp] theorem State.setAgent_lane (a : Agent) : (s.setAgent a).lane = s.lane := rfl
@[simp] theorem State.setAgent_classes (a : Agent) : (s.setAgent a).classes = s.classes := rfl
@[simp] theorem State.setAgent_command (a : Agent) : (s.setAgent a).command = s.command := rfl
@[simp] theorem State.setAgent_agent (a : Agent) : (s.setAgent a).agent = a := rfl
@[simp] theorem State.setAgent_staging (a : Agent) : (s.setAgent a).staging = s.staging := rfl
@[simp] theorem State.setAgent_op (a : Agent) : (s.setAgent a).op = s.op := rfl
@[simp] theorem State.setAgent_faults (a : Agent) : (s.setAgent a).faults = s.faults := rfl
@[simp] theorem State.setAgent_overflow (a : Agent) : (s.setAgent a).overflow = s.overflow := rfl
@[simp] theorem State.setAgent_globalCtrs (a : Agent) : (s.setAgent a).globalCtrs = s.globalCtrs := rfl
@[simp] theorem State.setAgent_notices (a : Agent) : (s.setAgent a).notices = s.notices := rfl
@[simp] theorem State.setAgent_noticesLost (a : Agent) : (s.setAgent a).noticesLost = s.noticesLost := rfl
@[simp] theorem State.setAgent_serial (a : Agent) : (s.setAgent a).serial = s.serial := rfl
@[simp] theorem State.setAgent_banks (a : Agent) : (s.setAgent a).banks = s.banks := rfl
@[simp] theorem State.setAgent_imageState (a : Agent) : (s.setAgent a).imageState = s.imageState := rfl
@[simp] theorem State.setAgent_freeIx (a : Agent) : (s.setAgent a).freeIx = s.freeIx := rfl
@[simp] theorem State.setAgent_pending (a : Agent) : (s.setAgent a).pending = s.pending := rfl

/-! ### `setBank` -/

@[simp] theorem State.setBank_phase (bk : BankId) (m : Memory) : (s.setBank bk m).phase = s.phase := rfl
@[simp] theorem State.setBank_rstnLow (bk : BankId) (m : Memory) : (s.setBank bk m).rstnLow = s.rstnLow := rfl
@[simp] theorem State.setBank_count (bk : BankId) (m : Memory) : (s.setBank bk m).count = s.count := rfl
@[simp] theorem State.setBank_uptime (bk : BankId) (m : Memory) : (s.setBank bk m).uptime = s.uptime := rfl
@[simp] theorem State.setBank_slots (bk : BankId) (m : Memory) : (s.setBank bk m).slots = s.slots := rfl
@[simp] theorem State.setBank_generation (bk : BankId) (m : Memory) : (s.setBank bk m).generation = s.generation := rfl
@[simp] theorem State.setBank_globals (bk : BankId) (m : Memory) : (s.setBank bk m).globals = s.globals := rfl
@[simp] theorem State.setBank_repair (bk : BankId) (m : Memory) : (s.setBank bk m).repair = s.repair := rfl
@[simp] theorem State.setBank_ports (bk : BankId) (m : Memory) : (s.setBank bk m).ports = s.ports := rfl
@[simp] theorem State.setBank_free (bk : BankId) (m : Memory) : (s.setBank bk m).free = s.free := rfl
@[simp] theorem State.setBank_lane (bk : BankId) (m : Memory) : (s.setBank bk m).lane = s.lane := rfl
@[simp] theorem State.setBank_classes (bk : BankId) (m : Memory) : (s.setBank bk m).classes = s.classes := rfl
@[simp] theorem State.setBank_command (bk : BankId) (m : Memory) : (s.setBank bk m).command = s.command := rfl
@[simp] theorem State.setBank_agent (bk : BankId) (m : Memory) : (s.setBank bk m).agent = s.agent := rfl
@[simp] theorem State.setBank_staging (bk : BankId) (m : Memory) : (s.setBank bk m).staging = s.staging := rfl
@[simp] theorem State.setBank_op (bk : BankId) (m : Memory) : (s.setBank bk m).op = s.op := rfl
@[simp] theorem State.setBank_faults (bk : BankId) (m : Memory) : (s.setBank bk m).faults = s.faults := rfl
@[simp] theorem State.setBank_overflow (bk : BankId) (m : Memory) : (s.setBank bk m).overflow = s.overflow := rfl
@[simp] theorem State.setBank_globalCtrs (bk : BankId) (m : Memory) : (s.setBank bk m).globalCtrs = s.globalCtrs := rfl
@[simp] theorem State.setBank_notices (bk : BankId) (m : Memory) : (s.setBank bk m).notices = s.notices := rfl
@[simp] theorem State.setBank_noticesLost (bk : BankId) (m : Memory) : (s.setBank bk m).noticesLost = s.noticesLost := rfl
@[simp] theorem State.setBank_serial (bk : BankId) (m : Memory) : (s.setBank bk m).serial = s.serial := rfl
@[simp] theorem State.setBank_banks (bk : BankId) (m : Memory) : (s.setBank bk m).banks = s.banks.set bk m := rfl
@[simp] theorem State.setBank_imageState (bk : BankId) (m : Memory) : (s.setBank bk m).imageState = s.imageState := rfl
@[simp] theorem State.setBank_freeIx (bk : BankId) (m : Memory) : (s.setBank bk m).freeIx = s.freeIx := rfl
@[simp] theorem State.setBank_pending (bk : BankId) (m : Memory) : (s.setBank bk m).pending = s.pending := rfl

/-! ### `returnCells` -/

@[simp] theorem State.returnCells_phase (cells : List CellId) : (s.returnCells cells).phase = s.phase := rfl
@[simp] theorem State.returnCells_rstnLow (cells : List CellId) : (s.returnCells cells).rstnLow = s.rstnLow := rfl
@[simp] theorem State.returnCells_count (cells : List CellId) : (s.returnCells cells).count = s.count := rfl
@[simp] theorem State.returnCells_uptime (cells : List CellId) : (s.returnCells cells).uptime = s.uptime := rfl
@[simp] theorem State.returnCells_slots (cells : List CellId) : (s.returnCells cells).slots = s.slots := rfl
@[simp] theorem State.returnCells_generation (cells : List CellId) : (s.returnCells cells).generation = s.generation := rfl
@[simp] theorem State.returnCells_globals (cells : List CellId) : (s.returnCells cells).globals = s.globals := rfl
@[simp] theorem State.returnCells_repair (cells : List CellId) : (s.returnCells cells).repair = s.repair := rfl
@[simp] theorem State.returnCells_ports (cells : List CellId) : (s.returnCells cells).ports = s.ports := rfl
@[simp] theorem State.returnCells_free (cells : List CellId) : (s.returnCells cells).free = s.free ++ cells := rfl
@[simp] theorem State.returnCells_lane (cells : List CellId) : (s.returnCells cells).lane = s.lane := rfl
@[simp] theorem State.returnCells_classes (cells : List CellId) : (s.returnCells cells).classes = s.classes := rfl
@[simp] theorem State.returnCells_command (cells : List CellId) : (s.returnCells cells).command = s.command := rfl
@[simp] theorem State.returnCells_agent (cells : List CellId) : (s.returnCells cells).agent = s.agent := rfl
@[simp] theorem State.returnCells_staging (cells : List CellId) : (s.returnCells cells).staging = s.staging := rfl
@[simp] theorem State.returnCells_op (cells : List CellId) : (s.returnCells cells).op = s.op := rfl
@[simp] theorem State.returnCells_faults (cells : List CellId) : (s.returnCells cells).faults = s.faults := rfl
@[simp] theorem State.returnCells_overflow (cells : List CellId) : (s.returnCells cells).overflow = s.overflow := rfl
@[simp] theorem State.returnCells_globalCtrs (cells : List CellId) : (s.returnCells cells).globalCtrs = s.globalCtrs := rfl
@[simp] theorem State.returnCells_notices (cells : List CellId) : (s.returnCells cells).notices = s.notices := rfl
@[simp] theorem State.returnCells_noticesLost (cells : List CellId) : (s.returnCells cells).noticesLost = s.noticesLost := rfl
@[simp] theorem State.returnCells_serial (cells : List CellId) : (s.returnCells cells).serial = s.serial := rfl
@[simp] theorem State.returnCells_banks (cells : List CellId) : (s.returnCells cells).banks = s.banks := rfl
@[simp] theorem State.returnCells_imageState (cells : List CellId) : (s.returnCells cells).imageState = s.imageState := rfl
@[simp] theorem State.returnCells_freeIx (cells : List CellId) : (s.returnCells cells).freeIx = s.freeIx := rfl
@[simp] theorem State.returnCells_pending (cells : List CellId) : (s.returnCells cells).pending = s.pending := rfl

/-! ### `reportNotSent` -/

@[simp] theorem State.reportNotSent_phase (o : Origin) : (s.reportNotSent o).phase = s.phase := rfl
@[simp] theorem State.reportNotSent_rstnLow (o : Origin) : (s.reportNotSent o).rstnLow = s.rstnLow := rfl
@[simp] theorem State.reportNotSent_count (o : Origin) : (s.reportNotSent o).count = s.count := rfl
@[simp] theorem State.reportNotSent_uptime (o : Origin) : (s.reportNotSent o).uptime = s.uptime := rfl
@[simp] theorem State.reportNotSent_slots (o : Origin) : (s.reportNotSent o).slots = s.slots := rfl
@[simp] theorem State.reportNotSent_generation (o : Origin) : (s.reportNotSent o).generation = s.generation := rfl
@[simp] theorem State.reportNotSent_globals (o : Origin) : (s.reportNotSent o).globals = s.globals := rfl
@[simp] theorem State.reportNotSent_repair (o : Origin) : (s.reportNotSent o).repair = s.repair := rfl
@[simp] theorem State.reportNotSent_ports (o : Origin) : (s.reportNotSent o).ports = s.ports := rfl
@[simp] theorem State.reportNotSent_free (o : Origin) : (s.reportNotSent o).free = s.free := rfl
@[simp] theorem State.reportNotSent_lane (o : Origin) : (s.reportNotSent o).lane = s.lane := rfl
@[simp] theorem State.reportNotSent_classes (o : Origin) : (s.reportNotSent o).classes = s.classes := rfl
@[simp] theorem State.reportNotSent_command (o : Origin) : (s.reportNotSent o).command = s.command := rfl
@[simp] theorem State.reportNotSent_agent (o : Origin) : (s.reportNotSent o).agent = s.agent := rfl
@[simp] theorem State.reportNotSent_staging (o : Origin) : (s.reportNotSent o).staging = s.staging := rfl
@[simp] theorem State.reportNotSent_op (o : Origin) : (s.reportNotSent o).op = s.op := rfl
@[simp] theorem State.reportNotSent_faults (o : Origin) : (s.reportNotSent o).faults = s.faults := rfl
@[simp] theorem State.reportNotSent_overflow (o : Origin) : (s.reportNotSent o).overflow = s.overflow := rfl
@[simp] theorem State.reportNotSent_globalCtrs (o : Origin) : (s.reportNotSent o).globalCtrs = s.globalCtrs := rfl
@[simp] theorem State.reportNotSent_notices (o : Origin) : (s.reportNotSent o).notices = s.notices := rfl
@[simp] theorem State.reportNotSent_noticesLost (o : Origin) : (s.reportNotSent o).noticesLost = satAdd 16 s.noticesLost (keptLost o) := rfl
@[simp] theorem State.reportNotSent_serial (o : Origin) : (s.reportNotSent o).serial = s.serial := rfl
@[simp] theorem State.reportNotSent_banks (o : Origin) : (s.reportNotSent o).banks = s.banks := rfl
@[simp] theorem State.reportNotSent_imageState (o : Origin) : (s.reportNotSent o).imageState = s.imageState := rfl
@[simp] theorem State.reportNotSent_freeIx (o : Origin) : (s.reportNotSent o).freeIx = s.freeIx := rfl
@[simp] theorem State.reportNotSent_pending (o : Origin) : (s.reportNotSent o).pending = s.pending := rfl

/-! ### `bumpGlobal` -/

@[simp] theorem State.bumpGlobal_phase (c : GlobalCtr) : (s.bumpGlobal c).phase = s.phase := rfl
@[simp] theorem State.bumpGlobal_rstnLow (c : GlobalCtr) : (s.bumpGlobal c).rstnLow = s.rstnLow := rfl
@[simp] theorem State.bumpGlobal_count (c : GlobalCtr) : (s.bumpGlobal c).count = s.count := rfl
@[simp] theorem State.bumpGlobal_uptime (c : GlobalCtr) : (s.bumpGlobal c).uptime = s.uptime := rfl
@[simp] theorem State.bumpGlobal_slots (c : GlobalCtr) : (s.bumpGlobal c).slots = s.slots := rfl
@[simp] theorem State.bumpGlobal_generation (c : GlobalCtr) : (s.bumpGlobal c).generation = s.generation := rfl
@[simp] theorem State.bumpGlobal_globals (c : GlobalCtr) : (s.bumpGlobal c).globals = s.globals := rfl
@[simp] theorem State.bumpGlobal_repair (c : GlobalCtr) : (s.bumpGlobal c).repair = s.repair := rfl
@[simp] theorem State.bumpGlobal_ports (c : GlobalCtr) : (s.bumpGlobal c).ports = s.ports := rfl
@[simp] theorem State.bumpGlobal_free (c : GlobalCtr) : (s.bumpGlobal c).free = s.free := rfl
@[simp] theorem State.bumpGlobal_lane (c : GlobalCtr) : (s.bumpGlobal c).lane = s.lane := rfl
@[simp] theorem State.bumpGlobal_classes (c : GlobalCtr) : (s.bumpGlobal c).classes = s.classes := rfl
@[simp] theorem State.bumpGlobal_command (c : GlobalCtr) : (s.bumpGlobal c).command = s.command := rfl
@[simp] theorem State.bumpGlobal_agent (c : GlobalCtr) : (s.bumpGlobal c).agent = s.agent := rfl
@[simp] theorem State.bumpGlobal_staging (c : GlobalCtr) : (s.bumpGlobal c).staging = s.staging := rfl
@[simp] theorem State.bumpGlobal_op (c : GlobalCtr) : (s.bumpGlobal c).op = s.op := rfl
@[simp] theorem State.bumpGlobal_faults (c : GlobalCtr) : (s.bumpGlobal c).faults = s.faults := rfl
@[simp] theorem State.bumpGlobal_overflow (c : GlobalCtr) : (s.bumpGlobal c).overflow = s.overflow := rfl
@[simp] theorem State.bumpGlobal_globalCtrs (c : GlobalCtr) : (s.bumpGlobal c).globalCtrs = bumpAt s.globalCtrs (globalCtrIdx c) := rfl
@[simp] theorem State.bumpGlobal_notices (c : GlobalCtr) : (s.bumpGlobal c).notices = s.notices := rfl
@[simp] theorem State.bumpGlobal_noticesLost (c : GlobalCtr) : (s.bumpGlobal c).noticesLost = s.noticesLost := rfl
@[simp] theorem State.bumpGlobal_serial (c : GlobalCtr) : (s.bumpGlobal c).serial = s.serial := rfl
@[simp] theorem State.bumpGlobal_banks (c : GlobalCtr) : (s.bumpGlobal c).banks = s.banks := rfl
@[simp] theorem State.bumpGlobal_imageState (c : GlobalCtr) : (s.bumpGlobal c).imageState = s.imageState := rfl
@[simp] theorem State.bumpGlobal_freeIx (c : GlobalCtr) : (s.bumpGlobal c).freeIx = s.freeIx := rfl
@[simp] theorem State.bumpGlobal_pending (c : GlobalCtr) : (s.bumpGlobal c).pending = s.pending := rfl

/-! ### `setQueue` -/

@[simp] theorem State.setQueue_phase (q : QueueId) (x : List Queued) : (s.setQueue q x).phase = s.phase := by
  cases q <;> rfl
@[simp] theorem State.setQueue_rstnLow (q : QueueId) (x : List Queued) : (s.setQueue q x).rstnLow = s.rstnLow := by
  cases q <;> rfl
@[simp] theorem State.setQueue_count (q : QueueId) (x : List Queued) : (s.setQueue q x).count = s.count := by
  cases q <;> rfl
@[simp] theorem State.setQueue_uptime (q : QueueId) (x : List Queued) : (s.setQueue q x).uptime = s.uptime := by
  cases q <;> rfl
@[simp] theorem State.setQueue_slots (q : QueueId) (x : List Queued) : (s.setQueue q x).slots = s.slots := by
  cases q <;> rfl
@[simp] theorem State.setQueue_generation (q : QueueId) (x : List Queued) : (s.setQueue q x).generation = s.generation := by
  cases q <;> rfl
@[simp] theorem State.setQueue_globals (q : QueueId) (x : List Queued) : (s.setQueue q x).globals = s.globals := by
  cases q <;> rfl
@[simp] theorem State.setQueue_repair (q : QueueId) (x : List Queued) : (s.setQueue q x).repair = s.repair := by
  cases q <;> rfl
@[simp] theorem State.setQueue_ports (q : QueueId) (x : List Queued) : (s.setQueue q x).ports = s.ports := by
  cases q <;> rfl
@[simp] theorem State.setQueue_free (q : QueueId) (x : List Queued) : (s.setQueue q x).free = s.free := by
  cases q <;> rfl
@[simp] theorem State.setQueue_agent (q : QueueId) (x : List Queued) : (s.setQueue q x).agent = s.agent := by
  cases q <;> rfl
@[simp] theorem State.setQueue_staging (q : QueueId) (x : List Queued) : (s.setQueue q x).staging = s.staging := by
  cases q <;> rfl
@[simp] theorem State.setQueue_op (q : QueueId) (x : List Queued) : (s.setQueue q x).op = s.op := by
  cases q <;> rfl
@[simp] theorem State.setQueue_faults (q : QueueId) (x : List Queued) : (s.setQueue q x).faults = s.faults := by
  cases q <;> rfl
@[simp] theorem State.setQueue_overflow (q : QueueId) (x : List Queued) : (s.setQueue q x).overflow = s.overflow := by
  cases q <;> rfl
@[simp] theorem State.setQueue_globalCtrs (q : QueueId) (x : List Queued) : (s.setQueue q x).globalCtrs = s.globalCtrs := by
  cases q <;> rfl
@[simp] theorem State.setQueue_notices (q : QueueId) (x : List Queued) : (s.setQueue q x).notices = s.notices := by
  cases q <;> rfl
@[simp] theorem State.setQueue_noticesLost (q : QueueId) (x : List Queued) : (s.setQueue q x).noticesLost = s.noticesLost := by
  cases q <;> rfl
@[simp] theorem State.setQueue_serial (q : QueueId) (x : List Queued) : (s.setQueue q x).serial = s.serial := by
  cases q <;> rfl
@[simp] theorem State.setQueue_banks (q : QueueId) (x : List Queued) : (s.setQueue q x).banks = s.banks := by
  cases q <;> rfl
@[simp] theorem State.setQueue_imageState (q : QueueId) (x : List Queued) : (s.setQueue q x).imageState = s.imageState := by
  cases q <;> rfl
@[simp] theorem State.setQueue_freeIx (q : QueueId) (x : List Queued) : (s.setQueue q x).freeIx = s.freeIx := by
  cases q <;> rfl
@[simp] theorem State.setQueue_pending (q : QueueId) (x : List Queued) : (s.setQueue q x).pending = s.pending := by
  cases q <;> rfl
@[simp] theorem State.setQueue_lane_lane (x : List Queued) : (s.setQueue .lane x).lane = x := rfl
@[simp] theorem State.setQueue_lane_classes (x : List Queued) : (s.setQueue .lane x).classes = s.classes := rfl
@[simp] theorem State.setQueue_lane_command (x : List Queued) : (s.setQueue .lane x).command = s.command := rfl
@[simp] theorem State.setQueue_cls_lane (c : Fin 4) (x : List Queued) : (s.setQueue (.cls c) x).lane = s.lane := rfl
@[simp] theorem State.setQueue_cls_classes (c : Fin 4) (x : List Queued) : (s.setQueue (.cls c) x).classes = s.classes.set c.val x c.isLt := rfl
@[simp] theorem State.setQueue_cls_command (c : Fin 4) (x : List Queued) : (s.setQueue (.cls c) x).command = s.command := rfl
@[simp] theorem State.setQueue_command_lane (p : FPort) (x : List Queued) : (s.setQueue (.command p) x).lane = s.lane := rfl
@[simp] theorem State.setQueue_command_classes (p : FPort) (x : List Queued) : (s.setQueue (.command p) x).classes = s.classes := rfl
@[simp] theorem State.setQueue_command_command (p : FPort) (x : List Queued) : (s.setQueue (.command p) x).command = s.command.set p x := rfl

/-! ### `deriveImage` -/

@[simp] theorem State.deriveImage_phase : s.deriveImage.phase = s.phase := by unfold State.deriveImage; dsimp only
@[simp] theorem State.deriveImage_rstnLow : s.deriveImage.rstnLow = s.rstnLow := by unfold State.deriveImage; dsimp only
@[simp] theorem State.deriveImage_count : s.deriveImage.count = s.count := by unfold State.deriveImage; dsimp only
@[simp] theorem State.deriveImage_uptime : s.deriveImage.uptime = s.uptime := by unfold State.deriveImage; dsimp only
@[simp] theorem State.deriveImage_slots : s.deriveImage.slots = s.slots := by unfold State.deriveImage; dsimp only
@[simp] theorem State.deriveImage_generation : s.deriveImage.generation = s.generation := by unfold State.deriveImage; dsimp only
@[simp] theorem State.deriveImage_globals : s.deriveImage.globals = s.globals := by unfold State.deriveImage; dsimp only
@[simp] theorem State.deriveImage_repair : s.deriveImage.repair = s.repair := by unfold State.deriveImage; dsimp only
@[simp] theorem State.deriveImage_ports : s.deriveImage.ports = s.ports := by unfold State.deriveImage; dsimp only
@[simp] theorem State.deriveImage_free : s.deriveImage.free = s.free := by unfold State.deriveImage; dsimp only
@[simp] theorem State.deriveImage_lane : s.deriveImage.lane = s.lane := by unfold State.deriveImage; dsimp only
@[simp] theorem State.deriveImage_classes : s.deriveImage.classes = s.classes := by unfold State.deriveImage; dsimp only
@[simp] theorem State.deriveImage_command : s.deriveImage.command = s.command := by unfold State.deriveImage; dsimp only
@[simp] theorem State.deriveImage_agent : s.deriveImage.agent = s.agent := by unfold State.deriveImage; dsimp only
@[simp] theorem State.deriveImage_staging : s.deriveImage.staging = s.staging := by unfold State.deriveImage; dsimp only
@[simp] theorem State.deriveImage_op : s.deriveImage.op = s.op := by unfold State.deriveImage; dsimp only
@[simp] theorem State.deriveImage_faults : s.deriveImage.faults = s.faults := by unfold State.deriveImage; dsimp only
@[simp] theorem State.deriveImage_overflow : s.deriveImage.overflow = s.overflow := by unfold State.deriveImage; dsimp only
@[simp] theorem State.deriveImage_globalCtrs : s.deriveImage.globalCtrs = s.globalCtrs := by unfold State.deriveImage; dsimp only
@[simp] theorem State.deriveImage_notices : s.deriveImage.notices = s.notices := by unfold State.deriveImage; dsimp only
@[simp] theorem State.deriveImage_noticesLost : s.deriveImage.noticesLost = s.noticesLost := by unfold State.deriveImage; dsimp only
@[simp] theorem State.deriveImage_serial : s.deriveImage.serial = s.serial := by unfold State.deriveImage; dsimp only
@[simp] theorem State.deriveImage_banks : s.deriveImage.banks = s.banks := by unfold State.deriveImage; dsimp only
@[simp] theorem State.deriveImage_imageState : s.deriveImage.imageState = imageStateOf s.banks := by
  unfold State.deriveImage; dsimp only
@[simp] theorem State.deriveImage_freeIx : s.deriveImage.freeIx = s.freeIx := by unfold State.deriveImage; dsimp only
@[simp] theorem State.deriveImage_pending : s.deriveImage.pending = s.pending := by unfold State.deriveImage; dsimp only

/-! ### Updates that are another update -/

@[simp] theorem State.setLink_eq (p : Port) (x : Link) : s.setLink p x = s.setPort p { s.port p with link := x } := rfl
@[simp] theorem State.setReception_eq (p : Port) (x : Option Reception) :
    s.setReception p x = s.setPort p { s.port p with reception := x } := rfl
@[simp] theorem State.setTx_eq (p : Port) (x : Option Queued) : s.setTx p x = s.setPort p { s.port p with tx := x } := rfl
@[simp] theorem State.closeTx_eq (p : Port) (e : TxEnd) :
    s.closeTx p e = s.setPort p { s.port p with tx := none, lastEnd := some e } := rfl
@[simp] theorem State.setSignal_eq (p : Port) (x : Bool) :
    s.setSignal p x = s.setPort p { s.port p with signal := x } := rfl
@[simp] theorem State.mapStream_eq (k : Fin 64) (f : Stream → Stream) :
    s.mapStream k f = s.setSlot k ((s.stream k).map f) := rfl
@[simp] theorem State.release_eq (f : Frame) : s.release f = s.returnCells f.cells := rfl
@[simp] theorem State.bumpStream_eq (k : Fin 64) (c : StreamCtr) :
    s.bumpStream k c = s.setSlot k ((s.stream k).map (Stream.bump c)) := rfl
@[simp] theorem State.bumpPort_eq (p : Port) (c : PortCtr) :
    s.bumpPort p c = s.setPort p { s.port p with counters := bumpAt (s.port p).counters (portCtrIdx c) } := rfl
@[simp] theorem State.enqueue_eq (q : QueueId) (x : Queued) : s.enqueue q x = s.setQueue q (s.queue q ++ [x]) := rfl

/-! ### Reading back what was written -/

@[simp] theorem PerPort.get_set_self {α : Type} (x : PerPort α) (p : Port) (v : α) : (x.set p v).get p = v := by
  cases p <;> rfl
theorem PerPort.get_set_other {α : Type} (x : PerPort α) {p q : Port} (v : α) (h : q ≠ p) :
    (x.set p v).get q = x.get q := by
  cases p <;> cases q <;> first | rfl | exact absurd rfl h
@[simp] theorem PerField.get_set_self {α : Type} (x : PerField α) (p : FPort) (v : α) : (x.set p v).get p = v := by
  cases p <;> rfl
theorem PerField.get_set_other {α : Type} (x : PerField α) {p q : FPort} (v : α) (h : q ≠ p) :
    (x.set p v).get q = x.get q := by
  cases p <;> cases q <;> first | rfl | exact absurd rfl h
@[simp] theorem PerBank.get_set_self {α : Type} (x : PerBank α) (k : BankId) (v : α) : (x.set k v).get k = v := by
  cases k <;> rfl
theorem PerBank.get_set_other {α : Type} (x : PerBank α) {k j : BankId} (v : α) (h : j ≠ k) :
    (x.set k v).get j = x.get j := by
  cases k <;> cases j <;> first | rfl | exact absurd rfl h

@[simp] theorem State.port_setPort_self (p : Port) (x : PortState) : (s.setPort p x).port p = x := by
  cases p <;> rfl
theorem State.port_setPort_other {p q : Port} (x : PortState) (h : q ≠ p) : (s.setPort p x).port q = s.port q :=
  PerPort.get_set_other _ _ h
theorem State.port_setPort (p q : Port) (x : PortState) :
    (s.setPort p x).port q = if q = p then x else s.port q := by
  split
  · next h => subst h; simp
  · next h => exact s.port_setPort_other x h

@[simp] theorem State.stream_setSlot_self (k : Fin 64) (x : Option Stream) : (s.setSlot k x).stream k = x := by
  simp [State.stream, State.setSlot]
theorem State.stream_setSlot_other {k j : Fin 64} (x : Option Stream) (h : j ≠ k) :
    (s.setSlot k x).stream j = s.stream j := by
  simp only [State.stream, State.setSlot, Fin.getElem_fin]
  exact Vector.getElem_set_ne _ _ (fun e => h (Fin.ext e.symm))
theorem State.stream_setSlot (k j : Fin 64) (x : Option Stream) :
    (s.setSlot k x).stream j = if j = k then x else s.stream j := by
  split
  · next h => subst h; simp
  · next h => exact s.stream_setSlot_other x h
@[simp] theorem State.stream_mapAllStreams (f : Stream → Stream) (k : Fin 64) :
    (s.mapAllStreams f).stream k = (s.stream k).map f := by
  simp [State.stream, State.mapAllStreams]

@[simp] theorem State.held_setHeld_self (r : Fin 8) (x : Option Held) : (s.setHeld r x).held r = x := by
  simp [State.held, State.setHeld]
theorem State.held_setHeld_other {r q : Fin 8} (x : Option Held) (h : q ≠ r) :
    (s.setHeld r x).held q = s.held q := by
  simp only [State.held, State.setHeld, Fin.getElem_fin]
  exact Vector.getElem_set_ne _ _ (fun e => h (Fin.ext e.symm))
theorem State.held_setHeld (r q : Fin 8) (x : Option Held) :
    (s.setHeld r x).held q = if q = r then x else s.held q := by
  split
  · next h => subst h; simp
  · next h => exact s.held_setHeld_other x h

@[simp] theorem State.queue_setQueue_self (q : QueueId) (x : List Queued) : (s.setQueue q x).queue q = x := by
  cases q with
  | lane => rfl
  | cls c => simp [State.queue, State.setQueue]
  | command p => simp [State.queue, State.setQueue]
theorem State.queue_setQueue_other {q r : QueueId} (x : List Queued) (h : r ≠ q) :
    (s.setQueue q x).queue r = s.queue r := by
  cases q <;> cases r <;> first | rfl | skip
  · exact absurd rfl h
  · next c d =>
    simp only [State.queue, State.setQueue, Fin.getElem_fin]
    exact Vector.getElem_set_ne _ _ (fun e => h (by rw [Fin.ext e.symm]))
  · next p q =>
    exact PerField.get_set_other _ _ (fun e => h (by rw [e]))

/-! ### A part of the state read through an update of another part -/


@[simp] theorem State.stream_setPort (p : Port) (x : PortState) (k' : Fin 64) : (s.setPort p x).stream k' = s.stream k' := rfl
@[simp] theorem State.held_setPort (p : Port) (x : PortState) (r' : Fin 8) : (s.setPort p x).held r' = s.held r' := rfl
@[simp] theorem State.queue_setPort (p : Port) (x : PortState) (qq : QueueId) : (s.setPort p x).queue qq = s.queue qq := by
  cases qq <;> rfl
@[simp] theorem State.port_setSlot (k : Fin 64) (x : Option Stream) (q : Port) : (s.setSlot k x).port q = s.port q := rfl
@[simp] theorem State.held_setSlot (k : Fin 64) (x : Option Stream) (r' : Fin 8) : (s.setSlot k x).held r' = s.held r' := rfl
@[simp] theorem State.queue_setSlot (k : Fin 64) (x : Option Stream) (qq : QueueId) : (s.setSlot k x).queue qq = s.queue qq := by
  cases qq <;> rfl
@[simp] theorem State.port_mapAllStreams (f : Stream → Stream) (q : Port) : (s.mapAllStreams f).port q = s.port q := rfl
@[simp] theorem State.held_mapAllStreams (f : Stream → Stream) (r' : Fin 8) : (s.mapAllStreams f).held r' = s.held r' := rfl
@[simp] theorem State.queue_mapAllStreams (f : Stream → Stream) (qq : QueueId) : (s.mapAllStreams f).queue qq = s.queue qq := by
  cases qq <;> rfl
@[simp] theorem State.port_setHeld (r : Fin 8) (x : Option Held) (q : Port) : (s.setHeld r x).port q = s.port q := rfl
@[simp] theorem State.stream_setHeld (r : Fin 8) (x : Option Held) (k' : Fin 64) : (s.setHeld r x).stream k' = s.stream k' := rfl
@[simp] theorem State.queue_setHeld (r : Fin 8) (x : Option Held) (qq : QueueId) : (s.setHeld r x).queue qq = s.queue qq := by
  cases qq <;> rfl
@[simp] theorem State.port_setAgent (a : Agent) (q : Port) : (s.setAgent a).port q = s.port q := rfl
@[simp] theorem State.stream_setAgent (a : Agent) (k' : Fin 64) : (s.setAgent a).stream k' = s.stream k' := rfl
@[simp] theorem State.held_setAgent (a : Agent) (r' : Fin 8) : (s.setAgent a).held r' = s.held r' := rfl
@[simp] theorem State.queue_setAgent (a : Agent) (qq : QueueId) : (s.setAgent a).queue qq = s.queue qq := by
  cases qq <;> rfl
@[simp] theorem State.port_setBank (bk : BankId) (m : Memory) (q : Port) : (s.setBank bk m).port q = s.port q := rfl
@[simp] theorem State.stream_setBank (bk : BankId) (m : Memory) (k' : Fin 64) : (s.setBank bk m).stream k' = s.stream k' := rfl
@[simp] theorem State.held_setBank (bk : BankId) (m : Memory) (r' : Fin 8) : (s.setBank bk m).held r' = s.held r' := rfl
@[simp] theorem State.queue_setBank (bk : BankId) (m : Memory) (qq : QueueId) : (s.setBank bk m).queue qq = s.queue qq := by
  cases qq <;> rfl
@[simp] theorem State.port_returnCells (cells : List CellId) (q : Port) : (s.returnCells cells).port q = s.port q := rfl
@[simp] theorem State.stream_returnCells (cells : List CellId) (k' : Fin 64) : (s.returnCells cells).stream k' = s.stream k' := rfl
@[simp] theorem State.held_returnCells (cells : List CellId) (r' : Fin 8) : (s.returnCells cells).held r' = s.held r' := rfl
@[simp] theorem State.queue_returnCells (cells : List CellId) (qq : QueueId) : (s.returnCells cells).queue qq = s.queue qq := by
  cases qq <;> rfl
@[simp] theorem State.port_reportNotSent (o : Origin) (q : Port) : (s.reportNotSent o).port q = s.port q := rfl
@[simp] theorem State.stream_reportNotSent (o : Origin) (k' : Fin 64) : (s.reportNotSent o).stream k' = s.stream k' := rfl
@[simp] theorem State.held_reportNotSent (o : Origin) (r' : Fin 8) : (s.reportNotSent o).held r' = s.held r' := rfl
@[simp] theorem State.queue_reportNotSent (o : Origin) (qq : QueueId) : (s.reportNotSent o).queue qq = s.queue qq := by
  cases qq <;> rfl
@[simp] theorem State.port_bumpGlobal (c : GlobalCtr) (q : Port) : (s.bumpGlobal c).port q = s.port q := rfl
@[simp] theorem State.stream_bumpGlobal (c : GlobalCtr) (k' : Fin 64) : (s.bumpGlobal c).stream k' = s.stream k' := rfl
@[simp] theorem State.held_bumpGlobal (c : GlobalCtr) (r' : Fin 8) : (s.bumpGlobal c).held r' = s.held r' := rfl
@[simp] theorem State.queue_bumpGlobal (c : GlobalCtr) (qq : QueueId) : (s.bumpGlobal c).queue qq = s.queue qq := by
  cases qq <;> rfl
@[simp] theorem State.port_setQueue (qq : QueueId) (x : List Queued) (q : Port) :
    (s.setQueue qq x).port q = s.port q := by cases qq <;> rfl
@[simp] theorem State.stream_setQueue (qq : QueueId) (x : List Queued) (k' : Fin 64) :
    (s.setQueue qq x).stream k' = s.stream k' := by cases qq <;> rfl
@[simp] theorem State.held_setQueue (qq : QueueId) (x : List Queued) (r' : Fin 8) :
    (s.setQueue qq x).held r' = s.held r' := by cases qq <;> rfl

end Sys2Proof.Machine
end

