-- ==== Sys2Proof/Laws/Frames.lean ====
section
/-! SUPPORT. What the shared operations of the data path leave alone: the control state (time, globals, agent,
staging, operation, banks, queue of commands), and how they bound the fault and notice queues. -/

namespace Sys2Proof.Machine

/-- The fields no operation of the data path writes are the same in both states. -/
structure SameControl (s t : State) : Prop where
  phase : t.phase = s.phase
  rstnLow : t.rstnLow = s.rstnLow
  count : t.count = s.count
  uptime : t.uptime = s.uptime
  generation : t.generation = s.generation
  globals : t.globals = s.globals
  agent : t.agent = s.agent
  staging : t.staging = s.staging
  op : t.op = s.op
  banks : t.banks = s.banks
  imageState : t.imageState = s.imageState
  freeIx : t.freeIx = s.freeIx
  pending : t.pending = s.pending

theorem SameControl.refl (s : State) : SameControl s s := by constructor <;> rfl

theorem SameControl.trans {s t u : State} (a : SameControl s t) (b : SameControl t u) : SameControl s u := by
  constructor
  · exact b.phase.trans a.phase
  · exact b.rstnLow.trans a.rstnLow
  · exact b.count.trans a.count
  · exact b.uptime.trans a.uptime
  · exact b.generation.trans a.generation
  · exact b.globals.trans a.globals
  · exact b.agent.trans a.agent
  · exact b.staging.trans a.staging
  · exact b.op.trans a.op
  · exact b.banks.trans a.banks
  · exact b.imageState.trans a.imageState
  · exact b.freeIx.trans a.freeIx
  · exact b.pending.trans a.pending

/-- The fault and notice queues do not outgrow their places. -/
structure KeepsLogs (s t : State) : Prop where
  faults : s.faults.length ≤ faultLimit → t.faults.length ≤ faultLimit
  notices : s.notices.length ≤ noticeLimit → t.notices.length ≤ noticeLimit

theorem KeepsLogs.refl (s : State) : KeepsLogs s s := ⟨id, id⟩

theorem KeepsLogs.trans {s t u : State} (a : KeepsLogs s t) (b : KeepsLogs t u) : KeepsLogs s u :=
  ⟨fun h => b.faults (a.faults h), fun h => b.notices (a.notices h)⟩

/-- A step of the data path: control state the same, logs bounded. -/
structure DataStep (s t : State) : Prop where
  control : SameControl s t
  logs : KeepsLogs s t

theorem DataStep.refl (s : State) : DataStep s s := ⟨.refl s, .refl s⟩

theorem DataStep.trans {s t u : State} (a : DataStep s t) (b : DataStep t u) : DataStep s u :=
  ⟨a.control.trans b.control, a.logs.trans b.logs⟩

/-- A fold of steps of the data path is one. -/
theorem DataStep.foldl {α : Type} (f : State → α → State) (h : ∀ s a, DataStep s (f s a)) (l : List α) (s : State) :
    DataStep s (l.foldl f s) := by
  induction l generalizing s with
  | nil => exact .refl s
  | cons a l ih => exact (h s a).trans (ih _)

/-! ### Updates -/

theorem State.setPort_step (s : State) (p : Port) (x : PortState) : DataStep s (s.setPort p x) :=
  ⟨by constructor <;> rfl, ⟨id, id⟩⟩
theorem State.setSlot_step (s : State) (k : Fin 64) (x : Option Stream) : DataStep s (s.setSlot k x) :=
  ⟨by constructor <;> rfl, ⟨id, id⟩⟩
theorem State.mapStream_step (s : State) (k : Fin 64) (f : Stream → Stream) : DataStep s (s.mapStream k f) :=
  s.setSlot_step k _
theorem State.mapAllStreams_step (s : State) (f : Stream → Stream) : DataStep s (s.mapAllStreams f) :=
  ⟨by constructor <;> rfl, ⟨id, id⟩⟩
theorem State.setHeld_step (s : State) (r : Fin 8) (x : Option Held) : DataStep s (s.setHeld r x) :=
  ⟨by constructor <;> rfl, ⟨id, id⟩⟩
theorem State.setQueue_step (s : State) (q : QueueId) (x : List Queued) : DataStep s (s.setQueue q x) := by
  cases q <;> exact ⟨by constructor <;> rfl, ⟨id, id⟩⟩
theorem State.returnCells_step (s : State) (l : List CellId) : DataStep s (s.returnCells l) :=
  ⟨by constructor <;> rfl, ⟨id, id⟩⟩
theorem State.release_step (s : State) (f : Frame) : DataStep s (s.release f) := s.returnCells_step _
theorem State.bumpStream_step (s : State) (k : Fin 64) (c : StreamCtr) : DataStep s (s.bumpStream k c) :=
  s.setSlot_step k _
theorem State.bumpPort_step (s : State) (p : Port) (c : PortCtr) : DataStep s (s.bumpPort p c) := s.setPort_step p _
theorem State.bumpGlobal_step (s : State) (c : GlobalCtr) : DataStep s (s.bumpGlobal c) :=
  ⟨by constructor <;> rfl, ⟨id, id⟩⟩
theorem State.reportNotSent_step (s : State) (o : Origin) : DataStep s (s.reportNotSent o) :=
  ⟨by constructor <;> rfl, ⟨id, id⟩⟩
theorem State.enqueue_step (s : State) (q : QueueId) (x : Queued) : DataStep s (s.enqueue q x) := s.setQueue_step q _

/-- What a grant gives: the first `n` free cells, with `keep` more free besides (R101, R102). -/
theorem State.grant_spec {s s' : State} {n keep : Nat} {cells : List CellId} (h : s.grant n keep = some (cells, s')) :
    n + keep ≤ s.free.length ∧ cells = s.free.take n ∧ s' = { s with free := s.free.drop n } := by
  unfold State.grant at h
  split at h
  · next hle => cases h; exact ⟨hle, rfl, rfl⟩
  · cases h

theorem State.grant_step {s s' : State} {n keep : Nat} {cells : List CellId} (h : s.grant n keep = some (cells, s')) :
    DataStep s s' := by
  obtain ⟨_, _, rfl⟩ := State.grant_spec h
  exact ⟨by constructor <;> rfl, ⟨id, id⟩⟩

/-- A receiver's grant is one cell, above the reserve on a field port (R102). -/
theorem State.grantReceiver_spec {s s' : State} {p : Port} {cells : List CellId}
    (h : s.grantReceiver p = some (cells, s')) :
    ∃ keep, s.grant 1 keep = some (cells, s') ∧ keep = (if p = .l then 0 else reserveCells) := by
  cases p <;> exact ⟨_, h, rfl⟩

theorem State.grantReceiver_step {s s' : State} {p : Port} {cells : List CellId}
    (h : s.grantReceiver p = some (cells, s')) : DataStep s s' := by
  obtain ⟨_, h, _⟩ := State.grantReceiver_spec h
  exact State.grant_step h

/-! ### Notices and faults -/

/-- What raising a notice may write: the notice queue, or the two lost counts (R161). -/
theorem State.raiseNotice_spec (s : State) (b : NoticeBody) :
    ∃ n l g, s.raiseNotice b = { s with notices := n, noticesLost := l, globalCtrs := g } ∧
      (n = s.notices ∨ (s.notices.length < noticeLimit ∧ n = s.notices ++ [⟨b, s.count⟩])) := by
  unfold State.raiseNotice
  split
  · split
    · next h => exact ⟨_, s.noticesLost, s.globalCtrs, rfl, .inr ⟨h, rfl⟩⟩
    · exact ⟨s.notices, _, _, rfl, .inl rfl⟩
  · exact ⟨s.notices, s.noticesLost, s.globalCtrs, rfl, .inl rfl⟩

theorem State.raiseNotice_step (s : State) (b : NoticeBody) : DataStep s (s.raiseNotice b) := by
  obtain ⟨n, l, g, e, h⟩ := s.raiseNotice_spec b
  rw [e]
  refine ⟨by constructor <;> rfl, ⟨id, fun hn => ?_⟩⟩
  rcases h with rfl | ⟨hl, rfl⟩
  · exact hn
  · simp only [List.length_append, List.length_singleton]; omega

/-- What raising a fault may write: the fault queue, the overflow count, and what a FAULTS_PENDING notice writes
(R156, R157). -/
theorem State.raiseFaultAt_spec (s : State) (f : FaultInfo) (time : Word32) :
    ∃ q o n l g, s.raiseFaultAt f time =
      { s with faults := q, overflow := o, notices := n, noticesLost := l, globalCtrs := g } := by
  unfold State.raiseFaultAt
  split
  · exact ⟨_, s.overflow, s.notices, s.noticesLost, s.globalCtrs, rfl⟩
  · split
    · dsimp only
      split
      · obtain ⟨n, l, g, e, _⟩ := State.raiseNotice_spec { s with faults := s.faults ++ [freshRecord f time] } .faultsPending
        exact ⟨_, s.overflow, n, l, g, e⟩
      · exact ⟨_, s.overflow, s.notices, s.noticesLost, s.globalCtrs, rfl⟩
    · exact ⟨s.faults, _, s.notices, s.noticesLost, s.globalCtrs, rfl⟩

theorem State.raiseFaultAt_step (s : State) (f : FaultInfo) (time : Word32) : DataStep s (s.raiseFaultAt f time) := by
  unfold State.raiseFaultAt
  split
  · refine ⟨by constructor <;> rfl, ⟨fun h => ?_, id⟩⟩
    rcases hq : s.faults.getLast? with _ | r
    · simp only [Option.toList_none, List.map_nil, List.append_nil, List.length_dropLast]
      omega
    · have hpos : 0 < s.faults.length := List.length_pos_of_ne_nil (fun e => by simp [e] at hq)
      simp only [Option.toList_some, List.map_cons, List.map_nil, List.length_append, List.length_dropLast,
        List.length_singleton]
      omega
  · split
    · next h =>
      have a : DataStep s { s with faults := s.faults ++ [freshRecord f time] } :=
        ⟨by constructor <;> rfl, ⟨fun _ => by simp only [List.length_append, List.length_singleton]; omega, id⟩⟩
      dsimp only
      split
      · exact a.trans (State.raiseNotice_step _ _)
      · exact a
    · exact ⟨by constructor <;> rfl, ⟨id, id⟩⟩

theorem State.raiseFault_step (s : State) (f : FaultInfo) : DataStep s (s.raiseFault f) := s.raiseFaultAt_step f _

/-- What raising a fault may write. -/
theorem State.raiseFault_spec (s : State) (f : FaultInfo) :
    ∃ q o n l g, s.raiseFault f =
      { s with faults := q, overflow := o, notices := n, noticesLost := l, globalCtrs := g } :=
  s.raiseFaultAt_spec f _

/-! ### Pool, queues and transmitters -/

theorem State.releaseShared_step (s : State) (p : FPort) (f : Frame) : DataStep s (s.releaseShared p f) := by
  unfold State.releaseShared
  split
  · exact .refl s
  · exact s.release_step f

theorem State.releaseFrom_step (s : State) (q : QueueId) (f : Frame) : DataStep s (s.releaseFrom q f) := by
  cases q with
  | command p => exact s.releaseShared_step p f
  | lane => exact s.release_step f
  | cls c => exact s.release_step f

theorem State.flushOne_step (q : QueueId) (s : State) (x : Queued) : DataStep s (State.flushOne q s x) :=
  ((s.releaseFrom_step q x.frame).trans (State.bumpGlobal_step _ _)).trans (State.reportNotSent_step _ _)

theorem State.flush_step (s : State) (q : QueueId) : DataStep s (s.flush q) :=
  (s.setQueue_step q []).trans (DataStep.foldl _ (State.flushOne_step q) _ _)

theorem State.sendHead_step (s : State) (p : Port) (q : QueueId) : DataStep s (s.sendHead p q) := by
  unfold State.sendHead
  split
  · exact .refl s
  · exact (s.setQueue_step q _).trans (State.setPort_step _ _ _)

theorem State.startTx_step (s : State) (p : Port) : DataStep s (s.startTx p) := by
  unfold State.startTx
  split
  · split
    · exact s.sendHead_step p _
    · exact .refl s
  · exact .refl s

theorem State.releaseTx_step (s : State) (p : Port) (f : Frame) : DataStep s (s.releaseTx p f) := by
  cases p
  · exact s.releaseShared_step .f0 f
  · exact s.releaseShared_step .f1 f
  · exact s.release_step f

theorem State.buildNotice_control (s : State) (n : NoticeRecord) (rest : List NoticeRecord) (cells : List CellId) :
    SameControl s (s.buildNotice n rest cells) := by constructor <;> rfl

/-- Offering a notice queue's records may write the egress fields and the notice log alone, and leaves a tail of
the records queued (R109, R162). -/
theorem offerNotices_spec (l : List NoticeRecord) (s : State) (hq : s.notices = l) :
    ∃ sr lost n ln fr, offerNotices l s =
      { s with serial := sr, noticesLost := lost, notices := n, lane := ln, free := fr } ∧ n <:+ l := by
  induction l generalizing s with
  | nil => exact ⟨s.serial, s.noticesLost, s.notices, s.lane, s.free, rfl, by rw [hq]⟩
  | cons x rest ih =>
    unfold offerNotices
    split
    · split
      · next cells s' hg =>
        obtain ⟨_, _, rfl⟩ := State.grant_spec hg
        obtain ⟨sr, lost, n, ln, fr, e, h⟩ := ih (State.buildNotice _ x rest cells) rfl
        exact ⟨sr, lost, n, ln, fr, by rw [e]; rfl, h.trans (List.suffix_cons x rest)⟩
      · exact ⟨s.serial, s.noticesLost, s.notices, s.lane, s.free, rfl, by rw [hq]⟩
    · exact ⟨s.serial, s.noticesLost, s.notices, s.lane, s.free, rfl, by rw [hq]⟩

/-- What feeding the notice queue may write (R109, R162). -/
theorem State.feedNotices_spec (s : State) :
    ∃ sr lost n ln fr, s.feedNotices =
      { s with serial := sr, noticesLost := lost, notices := n, lane := ln, free := fr } ∧ n <:+ s.notices :=
  offerNotices_spec s.notices s rfl

theorem State.feedNotices_step (s : State) : DataStep s s.feedNotices := by
  obtain ⟨sr, lost, n, ln, fr, e, h⟩ := s.feedNotices_spec
  rw [e]
  exact ⟨by constructor <;> rfl, ⟨id, fun hn => h.length_le.trans hn⟩⟩

theorem State.settle_step (s : State) : DataStep s s.settle := by
  unfold State.settle
  split
  · exact ((((s.feedNotices_step).trans (State.startTx_step _ _)).trans (State.feedNotices_step _)).trans
      (State.startTx_step _ _)).trans (State.startTx_step _ _)
  · exact .refl s

/-! ### Paths, resolutions, links -/

theorem State.evidence_step (s : State) (k : Fin 64) (p : FPort) : DataStep s (s.evidence k p) := by
  unfold State.evidence
  split
  · exact .refl s
  · dsimp only
    split
    · exact (s.mapStream_step k _).trans (State.raiseNotice_step _ _)
    · exact s.mapStream_step k _

theorem State.pathsLinkLoss_step (s : State) (p : FPort) : DataStep s (s.pathsLinkLoss p) :=
  (s.mapAllStreams_step _).trans (State.raiseNotice_step _ _)

theorem State.pathsLinkUp_step (s : State) (p : FPort) : DataStep s (s.pathsLinkUp p) :=
  (s.mapAllStreams_step _).trans (State.raiseNotice_step _ _)

theorem State.enqueueClass_step (s : State) (k : Fin 64) (c : Fin 4) (f : Frame) :
    DataStep s (s.enqueueClass k c f) := by
  unfold State.enqueueClass
  split
  · exact (s.enqueue_step _ _).trans (State.bumpStream_step _ _ _)
  · exact ((s.release_step f).trans (State.bumpStream_step _ _ _)).trans (State.bumpGlobal_step _ _)

theorem State.forward_step (s : State) (x : Subject) (f : Frame) (n : Nat) (a b : Bool) :
    DataStep s (s.forward x f n a b) := by
  unfold State.forward
  split
  · exact s.release_step f
  · split
    · dsimp only
      split
      · exact (s.mapStream_step _ _).trans (State.enqueueClass_step _ _ _ _)
      · exact (s.release_step f).trans (State.bumpStream_step _ _ _)
    · exact (s.release_step f).trans (State.bumpStream_step _ _ _)

theorem State.settleFrame_step (s : State) (x : Subject) (cfg : StreamConfig) : DataStep s (s.settleFrame x cfg) := by
  unfold State.settleFrame
  split
  · exact s.forward_step _ _ _ _ _
  · exact ((s.release_step _).trans (State.bumpStream_step _ _ _)).trans (State.raiseFault_step _ _)
  · exact ((s.returnCells_step _).trans (State.bumpStream_step _ _ _)).trans (State.forward_step _ _ _ _ _ _)
  · exact (s.bumpStream_step _ _).trans (State.forward_step _ _ _ _ _ _)

theorem State.resolve_step (s : State) (x : Subject) : DataStep s (s.resolve x) := by
  unfold State.resolve
  split
  · exact s.release_step _
  · exact (s.mapStream_step _ _).trans (State.settleFrame_step _ _ _)

theorem State.resolveHeld_step (s : State) (r : Fin 8) (e : Bool) : DataStep s (s.resolveHeld r e) := by
  unfold State.resolveHeld
  split
  · exact .refl s
  · exact (s.setHeld_step r none).trans (State.resolve_step _ _)

theorem State.discardHeld_step (s : State) (r : Fin 8) : DataStep s (s.discardHeld r) := by
  unfold State.discardHeld
  split
  · exact .refl s
  · exact ((s.setHeld_step r none).trans (State.release_step _ _)).trans (State.bumpStream_step _ _ _)

theorem State.discardStream_step (s : State) (k : Fin 64) : DataStep s (s.discardStream k) := by
  refine DataStep.foldl _ (fun s r => ?_) _ _
  split
  · exact s.discardHeld_step r
  · exact .refl s

theorem State.discardAll_step (s : State) : DataStep s s.discardAll :=
  DataStep.foldl _ (fun s r => s.discardHeld_step r) _ _

theorem State.forceResolve_step (s : State) (p : FPort) : DataStep s (s.forceResolve p) := by
  refine DataStep.foldl _ (fun s r => ?_) _ _
  split
  · exact s.resolveHeld_step r _
  · exact .refl s

theorem State.detect_step (s : State) (p : Port) : DataStep s (s.detect p) := by
  unfold State.detect
  split
  · exact s.setPort_step p _
  · exact .refl s

theorem State.abandon_step (s : State) (p : Port) (c : PortCtr) : DataStep s (s.abandon p c) := by
  unfold State.abandon
  split
  · exact ((s.setPort_step p _).trans (State.returnCells_step _ _)).trans (State.bumpPort_step _ _ _)
  · exact .refl s

theorem State.abandonMalformed_step (s : State) (p : Port) : DataStep s (s.abandonMalformed p) := by
  unfold State.abandonMalformed
  split
  · exact (s.abandon_step p _).trans (State.raiseFault_step _ _)
  · exact .refl s

theorem State.poolEmpty_step (s : State) (p : Port) : DataStep s (s.poolEmpty p) :=
  (s.bumpPort_step p _).trans (State.raiseFault_step _ _)

theorem State.abandonPoolEmpty_step (s : State) (p : Port) : DataStep s (s.abandonPoolEmpty p) := by
  unfold State.abandonPoolEmpty
  split
  · exact ((s.setPort_step p _).trans (State.returnCells_step _ _)).trans (State.poolEmpty_step _ _)
  · exact .refl s

theorem State.cutTx_step (s : State) (p : Port) : DataStep s (s.cutTx p) := by
  unfold State.cutTx
  split
  · exact (((s.setPort_step p _).trans (State.releaseTx_step _ _ _)).trans (State.bumpPort_step _ _ _)).trans
      (State.reportNotSent_step _ _)
  · exact .refl s

theorem State.fieldLinkLoss_step (s : State) (p : FPort) : DataStep s (s.fieldLinkLoss p) :=
  ((((((s.setPort_step (portOf p) _).trans (State.abandon_step _ _ _)).trans (State.cutTx_step _ _)).trans
    (State.flush_step _ _)).trans (State.pathsLinkLoss_step _ _)).trans (State.forceResolve_step _ _)).trans
    (State.detect_step _ _)

theorem State.dropLine_step (s : State) : DataStep s s.dropLine :=
  (((((((s.setPort_step .l _).trans (State.abandon_step _ _ _)).trans (State.cutTx_step _ _)).trans
    (State.flush_step _ _)).trans (State.flush_step _ _)).trans (State.flush_step _ _)).trans
    (State.flush_step _ _)).trans (State.flush_step _ _)

theorem State.linkComesUp_step (s : State) (p : Port) : DataStep s (s.linkComesUp p) := by
  cases p
  · exact (s.setPort_step .f0 _).trans (State.pathsLinkUp_step _ .f0)
  · exact (s.setPort_step .f1 _).trans (State.pathsLinkUp_step _ .f1)
  · exact s.setPort_step .l _

/-! ### The classifier and the receivers -/

theorem State.dropCopy_step (s : State) (c : Copy) (k : StreamCtr) : DataStep s (s.dropCopy c k) :=
  (s.release_step _).trans (State.bumpStream_step _ _ _)

theorem State.countChecks_step (s : State) (c : Copy) : DataStep s (s.countChecks c) := by
  unfold State.countChecks
  split
  · exact (s.bumpStream_step _ _).trans (State.evidence_step _ _ _)
  · exact s.bumpStream_step _ _

theorem State.meetHeld_step (s : State) (r : Fin 8) (h : Held) (c : Copy) (cfg : StreamConfig) :
    DataStep s (s.meetHeld r h c cfg) := by
  unfold State.meetHeld
  split
  · exact s.dropCopy_step c _
  · split
    · exact ((s.release_step _).trans (State.raiseFault_step _ _)).trans (State.resolveHeld_step _ _ _)
    · split
      · exact (((s.setHeld_step r none).trans (State.release_step _ _)).trans (State.bumpStream_step _ _ _)).trans
          (State.resolve_step _ _)
      · exact (((s.setHeld_step r none).trans (State.release_step _ _)).trans (State.bumpStream_step _ _ _)).trans
          (State.resolve_step _ _)

theorem State.holdOrResolve_step (s : State) (c : Copy) (st : Stream) : DataStep s (s.holdOrResolve c st) := by
  unfold State.holdOrResolve
  split
  · split
    · exact s.setHeld_step _ _
    · exact ((s.bumpGlobal_step _).trans (State.raiseFault_step _ _)).trans (State.resolve_step _ _)
  · exact s.resolve_step _

theorem State.forceResync_step (s : State) (c : Copy) (f : Id12) (t : Word16) : DataStep s (s.forceResync c f t) :=
  (((((s.mapStream_step _ _).trans (State.discardStream_step _ _)).trans (State.bumpStream_step _ _ _)).trans
    (State.raiseFault_step _ _)).trans (State.raiseNotice_step _ _)).trans (State.resolve_step _ _)

theorem State.leapCopy_step (s : State) (c : Copy) (st : Stream) : DataStep s (s.leapCopy c st) := by
  unfold State.leapCopy
  split
  · dsimp only
    split
    · exact s.forceResync_step _ _ _
    · exact (s.mapStream_step _ _).trans (State.dropCopy_step _ _ _)
  · exact s.dropCopy_step _ _

theorem State.classifyCopy_step (s : State) (c : Copy) (st : Stream) : DataStep s (s.classifyCopy c st) := by
  unfold State.classifyCopy
  split
  · split
    · exact s.resolve_step _
    · exact s.holdOrResolve_step c st
  · exact (s.release_step _).trans (State.mapStream_step _ _ _)
  · exact s.dropCopy_step _ _
  · exact s.leapCopy_step c st

theorem State.routeCopy_step (s : State) (c : Copy) (st : Stream) : DataStep s (s.routeCopy c st) := by
  unfold State.routeCopy
  split
  · split
    · exact s.meetHeld_step _ _ _ _
    · exact s.classifyCopy_step c st
  · exact s.classifyCopy_step c st

theorem State.activeCopy_step (s : State) (p : FPort) (k : Fin 64) (st : Stream) (f : Frame) :
    DataStep s (s.activeCopy p k st f) := by
  unfold State.activeCopy
  split
  · exact (s.countChecks_step _).trans (State.routeCopy_step _ _ _)
  · exact ((s.release_step f).trans (State.bumpStream_step _ _ _)).trans (State.raiseFault_step _ _)

theorem State.dataCopy_step (s : State) (p : FPort) (f : Frame) : DataStep s (s.dataCopy p f) := by
  unfold State.dataCopy
  split
  · exact ((s.release_step f).trans (State.bumpGlobal_step _ _)).trans (State.raiseFault_step _ _)
  · split
    · exact s.release_step f
    · split
      · exact (s.release_step f).trans (State.bumpStream_step _ _ _)
      · exact s.activeCopy_step _ _ _ _

theorem State.offerCommand_step (s : State) (p : FPort) (f : Frame) : DataStep s (s.offerCommand p f) := by
  unfold State.offerCommand
  split
  · exact s.enqueue_step _ _
  · exact s.bumpGlobal_step _

theorem State.sendToField_step (s : State) (f : Frame) : DataStep s (s.sendToField f) := by
  unfold State.sendToField
  dsimp only
  split
  · exact (s.offerCommand_step .f0 f).trans (State.offerCommand_step _ .f1 f)
  · exact ((s.offerCommand_step .f0 f).trans (State.offerCommand_step _ .f1 f)).trans (State.release_step _ _)

theorem State.passThrough_step (s : State) (f : Frame) : DataStep s (s.passThrough f) := by
  unfold State.passThrough
  split
  · exact s.enqueue_step _ _
  · exact (s.release_step f).trans (State.bumpGlobal_step _ _)

theorem State.fieldControl_step (s : State) (p : FPort) (f : Frame) : DataStep s (s.fieldControl p f) :=
  ((s.release_step f).trans (State.bumpGlobal_step _ _)).trans (State.raiseFault_step _ _)

theorem State.lineData_step (s : State) (f : Frame) : DataStep s (s.lineData f) :=
  (s.release_step f).trans (State.bumpGlobal_step _ _)

theorem State.headerError_step (s : State) (p : Port) (f : Frame) : DataStep s (s.headerError p f) :=
  ((s.release_step f).trans (State.bumpPort_step _ _ _)).trans (State.raiseFault_step _ _)

theorem State.dispatchField_step (s : State) (p : FPort) (f : Frame) (k : Kind) :
    DataStep s (s.dispatchField p f k) := by
  cases k
  · exact s.dataCopy_step p f
  · exact s.fieldControl_step p f
  · exact s.fieldControl_step p f
  · exact s.passThrough_step f
  · exact s.passThrough_step f

theorem State.breakRun_step (s : State) (p : Port) : DataStep s (s.breakRun p) := by
  unfold State.breakRun
  split
  · exact s.setPort_step p _
  · exact .refl s
  · exact .refl s

theorem State.beginReception_step (s : State) (p : Port) : DataStep s (s.beginReception p) := by
  unfold State.beginReception
  split
  · next h => exact (State.grantReceiver_step h).trans (State.setPort_step _ _ _)
  · exact s.poolEmpty_step p

theorem State.startMarker_step (s : State) (p : Port) : DataStep s (s.startMarker p) :=
  (s.abandonMalformed_step p).trans (State.beginReception_step _ p)

theorem State.dataByte_step (s : State) (p : Port) (b : Byte) : DataStep s (s.dataByte p b) := by
  unfold State.dataByte
  split
  · exact .refl s
  · split
    · exact s.abandonMalformed_step p
    · split
      · split
        · next h => exact (State.grantReceiver_step h).trans (State.setPort_step _ _ _)
        · exact s.abandonPoolEmpty_step p
      · exact s.setPort_step p _

theorem State.alignmentWord_step (s : State) (p : Port) (a : Bool) : DataStep s (s.alignmentWord p a) := by
  unfold State.alignmentWord
  split
  · exact .refl s
  · dsimp only
    split
    · exact s.linkComesUp_step p
    · exact s.setPort_step p _
  · exact s.abandonMalformed_step p

theorem State.alignmentTimeout_step (s : State) (p : Port) : DataStep s (s.alignmentTimeout p) := by
  unfold State.alignmentTimeout
  split
  · exact (s.setPort_step p _).trans (State.detect_step _ p)
  · exact .refl s
  · exact .refl s

theorem State.pathTimeout_step (s : State) (k : Fin 64) (p : FPort) : DataStep s (s.pathTimeout k p) := by
  unfold State.pathTimeout
  split
  · exact (s.mapStream_step k _).trans (State.raiseNotice_step _ _)
  · exact .refl s

theorem State.intervalTimeout_step (s : State) (k : Fin 64) : DataStep s (s.intervalTimeout k) := by
  unfold State.intervalTimeout
  split
  · exact s.mapStream_step k _
  · exact .refl s

theorem State.finishTx_step (s : State) (p : Port) (f : Frame) : DataStep s (s.finishTx p f) :=
  ((s.setPort_step p _).trans (State.releaseTx_step _ _ _)).trans (State.bumpPort_step _ _ _)

end Sys2Proof.Machine
end

