-- ==== Sys2Proof/Laws/Settle.lean ====
section
/-! SUPPORT. What the part does at once after a happening: what each of its operations touches, and that a frame
on its way up stays so (R96, R109, R112). -/

namespace Sys2Proof.Machine

/-! ### A happening of the running part -/

theorem whenRunning_running {f : State → State} {s : State} (h : s.phase = .running) :
    whenRunning f s = (f s).settle := by simp [whenRunning, h]

theorem whenRunning_stopped {f : State → State} {s : State} (h : s.phase ≠ .running) : whenRunning f s = s := by
  simp [whenRunning, h]

theorem State.settle_stopped {s : State} (h : s.phase ≠ .running) : s.settle = s := by simp [State.settle, h]

/-- What holds of a state and survives each of the operations of `settle` holds of the settled state. -/
theorem State.settle_induct {P : State → Prop} {s : State} (h : P s) (feed : ∀ u, P u → P u.feedNotices)
    (start : ∀ u p, P u → P (u.startTx p)) : P s.settle := by
  unfold State.settle
  split
  · exact start _ _ (start _ _ (feed _ (start _ _ (feed _ h))))
  · exact h

/-! ### The egress fields -/

theorem EgressOnly.refl (s : State) : EgressOnly s s := ⟨rfl, fun _ => rfl⟩

theorem EgressOnly.trans {s t u : State} (a : EgressOnly s t) (b : EgressOnly t u) : EgressOnly s u := by
  refine ⟨?_, fun p => ?_⟩
  · rw [b.1, a.1]
  · rw [b.2 p, a.2 p]

theorem EgressOnly.of_lane (s : State) (l : List Queued) (fr : List CellId) :
    EgressOnly s { s with lane := l, free := fr } := ⟨rfl, fun _ => rfl⟩

theorem State.feedNotices_egress (s : State) : EgressOnly s s.feedNotices := by
  obtain ⟨sr, lost, n, ln, fr, e, _⟩ := s.feedNotices_spec
  rw [e]
  exact ⟨rfl, fun _ => rfl⟩

theorem State.sendHead_egress (s : State) (p : Port) (q : QueueId) : EgressOnly s (s.sendHead p q) := by
  unfold State.sendHead
  split
  · exact .refl s
  · refine ⟨?_, fun p' => ?_⟩
    · cases q <;> rfl
    · by_cases h : p' = p
      · subst h
        cases q <;> cases p' <;> rfl
      · simp only [State.setTx_eq, State.port_setPort_other _ _ h]
        cases q <;> rfl

theorem State.startTx_egress (s : State) (p : Port) : EgressOnly s (s.startTx p) := by
  unfold State.startTx
  split
  · split
    · exact s.sendHead_egress p _
    · exact .refl s
  · exact .refl s

/-- The parts of the state that what follows at once leaves alone. -/
theorem EgressOnly.same {s t : State} (h : EgressOnly s t) :
    t.slots = s.slots ∧ t.generation = s.generation ∧ t.globals = s.globals ∧ t.repair = s.repair ∧
      t.agent = s.agent ∧ t.staging = s.staging ∧ t.op = s.op ∧ t.faults = s.faults ∧ t.overflow = s.overflow ∧
      t.globalCtrs = s.globalCtrs ∧ t.banks = s.banks ∧ t.imageState = s.imageState := by
  rw [h.1]
  exact ⟨rfl, rfl, rfl, rfl, rfl, rfl, rfl, rfl, rfl, rfl, rfl, rfl⟩

theorem EgressOnly.stream {s t : State} (h : EgressOnly s t) (k : Fin 64) : t.stream k = s.stream k := by
  simp only [State.stream, h.same.1]

theorem EgressOnly.held {s t : State} (h : EgressOnly s t) (r : Fin 8) : t.held r = s.held r := by
  simp only [State.held, h.same.2.2.2.1]

theorem EgressOnly.link {s t : State} (h : EgressOnly s t) (p : Port) : (t.port p).link = (s.port p).link := by
  rw [h.2 p]

theorem EgressOnly.reception {s t : State} (h : EgressOnly s t) (p : Port) :
    (t.port p).reception = (s.port p).reception := by rw [h.2 p]

theorem EgressOnly.portCounter {s t : State} (h : EgressOnly s t) (p : Port) (c : PortCtr) :
    t.portCounter p c = s.portCounter p c := by
  simp only [State.portCounter]
  rw [h.2 p]

/-! ### A frame on its way up -/

/-- Offering notices only adds to the tail of the lane. -/
theorem offerNotices_lane (l : List NoticeRecord) (s : State) : s.lane <+: (offerNotices l s).lane := by
  induction l generalizing s with
  | nil => exact List.prefix_rfl
  | cons x rest ih =>
    unfold offerNotices
    split
    · split
      · next cells s' hg =>
        obtain ⟨_, _, rfl⟩ := State.grant_spec hg
        refine List.IsPrefix.trans ?_ (ih _)
        exact List.prefix_append _ _
      · exact List.prefix_rfl
    · exact List.prefix_rfl

theorem State.feedNotices_port (s : State) (p : Port) : s.feedNotices.port p = s.port p := by
  obtain ⟨sr, lost, n, ln, fr, e, _⟩ := s.feedNotices_spec
  rw [e]; rfl

theorem OnItsWay.feedNotices {s : State} {x : Queued} (h : OnItsWay s x) : OnItsWay s.feedNotices x := by
  rcases h with h | h
  · exact .inl ((offerNotices_lane s.notices s).subset h)
  · exact .inr (by rw [s.feedNotices_port]; exact h)

theorem State.txSource_field {s : State} {p : Port} {q : QueueId} (hp : p ≠ .l) (h : s.txSource p = some q) :
    ∃ fp, q = .command fp ∧ p = portOf fp := by
  cases p with
  | l => exact absurd rfl hp
  | f0 =>
    simp only [State.txSource, State.firstQueue] at h
    split at h
    · cases h
    · cases h; exact ⟨.f0, rfl, rfl⟩
  | f1 =>
    simp only [State.txSource, State.firstQueue] at h
    split at h
    · cases h
    · cases h; exact ⟨.f1, rfl, rfl⟩

theorem OnItsWay.startTx {s : State} {x : Queued} (h : OnItsWay s x) (p : Port) : OnItsWay (s.startTx p) x := by
  unfold State.startTx
  split
  · next hc =>
    simp only [Bool.and_eq_true, Option.isNone_iff_eq_none] at hc
    split
    · next q hq =>
      unfold State.sendHead
      split
      · exact h
      · next y rest hy =>
        by_cases hp : p = .l
        · subst hp
          rcases h with h | h
          · by_cases hql : q = .lane
            · subst hql
              have e : s.lane = y :: rest := hy
              rw [e] at h
              rcases List.mem_cons.1 h with rfl | h
              · exact .inr (by simp)
              · exact .inl (by simpa using h)
            · refine .inl ?_
              cases q with
              | lane => exact absurd rfl hql
              | cls c => simpa using h
              | command fp => simpa using h
          · rw [hc.1] at h; cases h
        · obtain ⟨fp, rfl, rfl⟩ := State.txSource_field hp hq
          rcases h with h | h
          · exact .inl (by simpa using h)
          · refine .inr ?_
            cases fp <;> simpa [State.port, State.setQueue, State.setPort, PerPort.get, PerPort.set, portOf] using h
    · exact h
  · exact h

/-- A frame on its way up stays so through what follows at once. -/
theorem OnItsWay.settle {s : State} {x : Queued} (h : OnItsWay s x) : OnItsWay s.settle x :=
  State.settle_induct (P := fun u => OnItsWay u x) h (fun _ hu => OnItsWay.feedNotices hu)
    (fun _ p hu => OnItsWay.startTx hu p)

/-! ### Feeding twice -/

/-- A feed leaves nothing for a second one right after it (R109). -/
theorem offerNotices_fed (l : List NoticeRecord) (s : State) (h : s.notices = l) :
    (offerNotices l s).feedNotices = offerNotices l s := by
  induction l generalizing s with
  | nil => unfold State.feedNotices; rw [offerNotices, h, offerNotices]
  | cons x rest ih =>
    by_cases hr : (s.linkUp .l && s.roomFor .lane noticeCells) = true
    · cases hg : s.grant noticeCells 0 with
      | some g =>
        simp only [offerNotices, hr, hg, if_true]
        exact ih _ rfl
      | none => simp only [offerNotices, hr, hg, if_true, State.feedNotices, h]
    · simp only [offerNotices, if_neg hr, State.feedNotices, h]

/-- What follows at once offers the notices first, so that an offer just taken changes nothing (R109). -/
theorem State.settle_feedNotices {s : State} (h : s.phase = .running) : s.feedNotices.settle = s.settle := by
  have hp : s.feedNotices.phase = .running := by
    obtain ⟨_, _, _, _, _, e, _⟩ := s.feedNotices_spec
    rw [e]; exact h
  have hf : s.feedNotices.feedNotices = s.feedNotices := offerNotices_fed _ s rfl
  simp only [State.settle, h, hp, if_true, hf]

end Sys2Proof.Machine
end

