-- ==== Sys2Proof/Laws/Agent.lean ====
section
/-! SUPPORT. The management agent: a request taken at once, a response placed in a lane with room, and what an
answer leaves alone (Chapter 8). -/

namespace Sys2Proof.Machine

/-! ### Sizes -/

/-- A payload of up to 128 bytes makes a response of at most 3 cells (R107). -/
theorem responseCells_le {payload : List Byte} (h : payload.length ≤ 128) : responseCells payload ≤ 3 := by
  have hp : partsFor payload ≤ 4 := by
    unfold partsFor ceilDiv
    omega
  unfold responseCells cellsFor frameLength ceilDiv
  omega

@[simp] theorem length_be16 (x : Word16) : (be16 x).length = 2 := rfl
@[simp] theorem length_be32 (x : Word32) : (be32 x).length = 4 := rfl
@[simp] theorem length_idBytes (x : Id12) : (idBytes x).length = 2 := rfl
@[simp] theorem length_entryRecordBytes (r : EntryRecord) : (entryRecordBytes r).length = 18 := rfl
@[simp] theorem length_globalsRecordBytes (r : GlobalsRecord) : (globalsRecordBytes r).length = 13 := rfl
@[simp] theorem length_faultBytes (r : FaultRecord) : (faultBytes r).length = 17 := rfl

/-- A list whose members each make `n` bytes makes `n` times its length. -/
theorem length_flatMap_const {α : Type} {n : Nat} {f : α → List Byte} (h : ∀ a, (f a).length = n) (l : List α) :
    (l.flatMap f).length = n * l.length := by
  induction l with
  | nil => simp
  | cons a l ih => simp [h, ih, Nat.mul_add]; omega

theorem length_counterBytes (l : List Word32) : (counterBytes l).length = 4 * l.length :=
  length_flatMap_const length_be32 l

theorem length_streamResults (st : Stream) : (streamResults st).length = 30 := by
  unfold streamResults
  cases st.candidate <;> simp

theorem length_entryResults (s : State) (slot : Byte) (k : Fin 64) : (s.entryResults slot k).length = 33 := by
  unfold State.entryResults
  cases s.stream k
  · simp
  · simp [length_streamResults]

theorem length_poolView (s : State) : s.poolView.length = 21 := by
  simp [State.poolView, cells16, allClasses, length_flatMap_const length_be16]

theorem length_portCounterResults (s : State) (page : Byte) : (s.portCounterResults page).length ≤ 106 := by
  unfold State.portCounterResults
  split <;> simp [length_counterBytes, length_poolView]

theorem length_faultResults (s : State) (n : Nat) (h : n ≤ 6) : (s.faultResults n).length ≤ 105 := by
  simp only [State.faultResults, List.length_append, length_flatMap_const length_faultBytes, List.length_take,
    List.length_cons, List.length_nil, length_be16]
  omega

theorem length_stagedBytes (i : Nat) (x : Staged) : (stagedBytes i x).length = 20 := by
  unfold stagedBytes
  cases x with
  | entry k act f => cases f <;> simp
  | globals f => simp

theorem length_stagingResults (s : State) (first : Nat) : (s.stagingResults first).length ≤ 122 := by
  have h : (s.reportedRecords first).length ≤ 6 := by simp [State.reportedRecords]
  simp only [State.stagingResults, List.length_append, List.length_cons, List.length_nil,
    length_flatMap_const (fun x : Staged × Nat => length_stagedBytes x.2 x.1)]
  omega

/-! ### Placing and answering -/

/-- The lane has room for, and the pool grants, any response (R107, R108). -/
structure Roomy (s : State) : Prop where
  room : cellCount s.lane + 3 ≤ 16
  cells : 3 ≤ s.free.length

/-- A response placed where there is room joins the tail of the lane in the first free cells (R108). -/
theorem State.tryPlace_roomy {s : State} (h : Roomy s) {t : Word16} {payload : List Byte} (full : Bool)
    (hp : payload.length ≤ 128) :
    s.tryPlace t payload full = some { s with
      free := s.free.drop (responseCells payload)
      lane := s.lane ++ [⟨⟨mgmtFrame .mgmtRsp s.globals.station t payload, s.free.take (responseCells payload)⟩,
        .response full⟩] } := by
  have hc := responseCells_le hp
  have hr : s.roomFor .lane (responseCells payload) = true :=
    decide_eq_true (show cellCount s.lane + responseCells payload ≤ 16 by have := h.room; omega)
  have hg : s.grant (responseCells payload) 0 =
      some (s.free.take (responseCells payload), { s with free := s.free.drop (responseCells payload) }) := by
    unfold State.grant
    rw [if_pos (by have := h.cells; omega)]
  simp only [State.tryPlace, hr, if_true, hg]
  rfl

/-- An answer where there is room: the response at the tail of the lane, and the cache by R121. -/
theorem State.answer_roomy {s : State} (h : Roomy s) (m t : Word16) (code : Byte) (st : Status) {results : List Byte}
    (hp : results.length ≤ 126) :
    s.answer m t code st results = { s with
      free := s.free.drop (responseCells (responsePayload code st results))
      lane := s.lane ++ [⟨⟨mgmtFrame .mgmtRsp s.globals.station t (responsePayload code st results),
        s.free.take (responseCells (responsePayload code st results))⟩, .response false⟩]
      agent := { s.agent with
        cache := if (s.holds m && cacheable st) = true then some ⟨t, responsePayload code st results⟩
          else s.agent.cache } } := by
  have hl : (responsePayload code st results).length ≤ 128 := by simp [responsePayload]; omega
  unfold State.answer State.place
  rw [State.tryPlace_roomy h false hl]
  unfold State.cacheResponse
  dsimp only
  have hh : State.holds { s with
      free := s.free.drop (responseCells (responsePayload code st results))
      lane := s.lane ++ [⟨⟨mgmtFrame .mgmtRsp s.globals.station t (responsePayload code st results),
        s.free.take (responseCells (responsePayload code st results))⟩, .response false⟩] } m = s.holds m := rfl
  rw [hh]
  split <;> rfl

/-- An answer placed where there is room leaves everything but the lane, the pool and the cache, and is on its way. -/
theorem State.answer_spec {s : State} (h : Roomy s) (m t : Word16) (code : Byte) (st : Status) {results : List Byte}
    (hp : results.length ≤ 126) :
    EgressOnly { s with agent := (s.answer m t code st results).agent } (s.answer m t code st results) ∧
      (s.answer m t code st results).agent = { s.agent with
        cache := if (s.holds m && cacheable st) = true then some ⟨t, responsePayload code st results⟩
          else s.agent.cache } ∧
      ∃ x, OnItsWay (s.answer m t code st results) x ∧
        x.frame.bytes = mgmtFrame .mgmtRsp s.globals.station t (responsePayload code st results) := by
  rw [State.answer_roomy h m t code st hp]
  refine ⟨⟨rfl, fun _ => rfl⟩, rfl, ?_⟩
  exact ⟨_, .inl (List.mem_append_right _ (List.mem_cons_self ..)), rfl⟩

/-! ### The take -/

/-- What the beginning of a take changes: the agent's turn, and the holder's running timer (R119, R120). -/
theorem State.touchLease_spec (s : State) (m : Word16) :
    ∃ l, s.touchLease m = { s with agent := { s.agent with lease := l } } ∧
      l.map (fun x => x.holder) = s.agent.lease.map (fun x => x.holder) ∧
      (l.isNone = s.agent.lease.isNone) := by
  unfold State.touchLease
  cases hl : s.agent.lease with
  | none => exact ⟨none, by simp only [← hl], rfl, rfl⟩
  | some x =>
    dsimp only
    split
    · exact ⟨_, rfl, rfl, rfl⟩
    · exact ⟨some x, by simp only [← hl], rfl, rfl⟩

theorem State.holds_congr {s t : State} {m : Word16}
    (h : t.agent.lease.map (fun x => x.holder) = s.agent.lease.map (fun x => x.holder)) :
    t.holds m = s.holds m := by
  unfold State.holds
  cases ht : t.agent.lease <;> cases hs : s.agent.lease <;> simp_all

/-- The state in which a request taken at once is judged: nothing but the turn and the holder's timer is changed. -/
theorem State.begun_spec (s : State) (m : Word16) :
    ∃ l, s.beginTurn.touchLease m = { s with agent := { s.agent with busy := true, lease := l } } ∧
      l.map (fun x => x.holder) = s.agent.lease.map (fun x => x.holder) := by
  obtain ⟨l, e, h, _⟩ := s.beginTurn.touchLease_spec m
  exact ⟨l, e, h⟩

/-- The beginning of a take, in full: the turn, and the lease touched by its holder (R119, R120, R124). -/
theorem State.begun_eq (s : State) (m : Word16) :
    s.beginTurn.touchLease m =
      { s with agent := { s.agent with busy := true, lease := s.leaseTouched m } } := by
  unfold State.touchLease State.leaseTouched State.beginTurn
  rcases hl : s.agent.lease with _ | ⟨h, timer⟩
  · simp only [State.setAgent, hl, Option.map_none]
  · simp only [State.setAgent, hl, Option.map_some]
    by_cases e : h = m <;> cases timer <;> simp [e]

/-- The cells of a response, by the length of its payload (R107, R177). -/
theorem responseCells_eq (payload : List Byte) :
    responseCells payload = (8 + 34 * max 1 ((payload.length + 31) / 32) + 63) / 64 := by
  unfold responseCells cellsFor frameLength partsFor ceilDiv
  omega

/-- The argument bytes and what stands before them fit one partition (Table 12-3). -/
theorem length_requestPayload (m : Word16) (r : Request) : (requestPayload m r).length ≤ 32 := by
  cases r <;> simp [requestPayload, requestArgs]

/-- A management frame is as long as its partitions make it (R177). -/
theorem length_mgmtFrame (k : Kind) (station : Id12) (seq : Word16) (payload : List Byte) :
    (mgmtFrame k station seq payload).length = frameLength 32 (partsFor payload) := by
  have h : ∀ i, (bytesAt payload (32 * i) 32 ++ be16 (crc16 (bytesAt payload (32 * i) 32))).length = 34 := by
    intro i; simp [bytesAt]
  simp only [mgmtFrame, List.length_append, length_flatMap_const h, List.length_range, frameLength]
  simp [header]
  omega

/-- Every request fits one cell (R107, R177). -/
theorem State.requestFrame_cell (s : State) (m t : Word16) (r : Request) :
    cellsFor (s.requestFrame m t r).length = 1 := by
  have h := length_requestPayload m r
  have hp : partsFor (requestPayload m r) = 1 := by
    unfold partsFor ceilDiv
    omega
  simp only [State.requestFrame, length_mgmtFrame, hp, frameLength, cellsFor, ceilDiv]

/-- What a frame's coming and its release leave of the pool: the same cells, in another order (R101, R103). -/
structure PoolOnly (s v : State) : Prop where
  same : v = { s with free := v.free }
  cells : v.free.Perm s.free

/-- An idle agent takes a request that comes in a frame the pool grants: its take, from the state with the frame released
(R108, R119; log 6). -/
theorem State.requestComes_idle {s : State} (hb : s.agent.busy = false) (hf : s.agent.fullPending = false)
    (he : s.agent.requests = []) {bytes : List Byte} (hc : cellsFor bytes.length ≤ s.free.length)
    (take : State → State) : ∃ v, PoolOnly s v ∧ s.requestComes bytes take = take v := by
  unfold State.requestComes State.grant
  rw [if_pos (by omega)]
  dsimp only
  have : State.agentReady { s with free := s.free.drop (cellsFor bytes.length) } = true := by
    unfold State.agentReady; simp [hb, hf]
  rw [if_pos (by rw [this, he]; rfl)]
  refine ⟨_, ⟨rfl, ?_⟩, rfl⟩
  show (s.free.drop _ ++ s.free.take _).Perm s.free
  exact (List.perm_append_comm).trans (by rw [List.take_append_drop])

/-- A frame whose cells the pool refuses is POOL_EMPTY of L (R91, R102; log 6). -/
theorem State.requestComes_refused {s : State} {bytes : List Byte} (hc : s.free.length < cellsFor bytes.length)
    (take : State → State) : s.requestComes bytes take = s.poolEmpty .l := by
  unfold State.requestComes State.grant
  rw [if_neg (by omega)]

/-- Where a request is taken at once does not depend on the order of the free cells. -/
theorem TakesAtOnce.pool {s v : State} {m t : Word16} (h : TakesAtOnce s m t) (p : PoolOnly s v) :
    TakesAtOnce v m t := by
  have hl := p.cells.length_eq
  have e := p.same
  generalize v.free = fr at e hl
  subst e
  exact ⟨h.running, h.idle, h.noReset, h.empty, h.fresh, h.room, by show 3 ≤ fr.length; have := h.cells; omega⟩

/-- A request row that is taken at once: judged, from the state with its frame released (R108, R119, R120). -/
theorem agentRequest_takes {s : State} {m t : Word16} (h : TakesAtOnce s m t) (r : Request) :
    ∃ v, PoolOnly s v ∧
      whenRunning (fun s => s.agentRequest m t r) s = ((v.beginTurn.touchLease m).judge m t r).settle := by
  obtain ⟨v, p, e⟩ := State.requestComes_idle h.idle h.noReset h.empty
    (by rw [State.requestFrame_cell]; have := h.cells; omega) (bytes := s.requestFrame m t r)
    (fun s => s.takeRequest m t r)
  refine ⟨v, p, ?_⟩
  rw [whenRunning_running h.running]
  unfold State.agentRequest
  rw [e]
  rfl

/-- No cached response repeats: judged by the steps from 3 on (R120, R121). -/
theorem TakesAtOnce.judged {s : State} {m t : Word16} (h : TakesAtOnce s m t) (r : Request) :
    (s.beginTurn.touchLease m).judge m t r =
      match (s.beginTurn.touchLease m).refusal m r with
      | some st => (s.beginTurn.touchLease m).answer m t (requestCode r) st []
      | none => (s.beginTurn.touchLease m).execute m t r := by
  obtain ⟨l, e, hl⟩ := s.begun_spec m
  have hc : (s.beginTurn.touchLease m).cachedFor m t = none := by
    have hh : (s.beginTurn.touchLease m).holds m = s.holds m := State.holds_congr (by rw [e]; exact hl)
    have h0 := h.fresh
    unfold State.cachedFor at h0 ⊢
    rw [hh]
    have ea : (s.beginTurn.touchLease m).agent.cache = s.agent.cache := by rw [e]
    rw [ea]
    exact h0
  unfold State.judge
  split
  · next e' => exact absurd (hc.symm.trans e') (by simp)
  · rfl

/-- The state in which a request taken at once is judged has room for its response. -/
theorem TakesAtOnce.roomy {s : State} {m t : Word16} (h : TakesAtOnce s m t) : Roomy (s.beginTurn.touchLease m) := by
  obtain ⟨l, e, _⟩ := s.begun_spec m
  rw [e]
  exact ⟨h.room, h.cells⟩

/-- A request that no step refuses, while no operation is in progress (R120). -/
theorem State.refusal_none {s : State} {m : Word16} {r : Request} (hu : ∀ c, r ≠ .unknown c) (ho : s.op = .idle)
    (hl : needsLease r = false ∨ s.holds m = true) (ha : argumentsOk r = true) : s.refusal m r = none := by
  unfold State.refusal
  split
  · next c => exact absurd rfl (hu c)
  · rw [if_neg (fun hh => hh.1 ho), if_neg, if_pos ha]
    rcases hl with hl | hl <;> simp [hl]

/-- A request that passes during an operation and needs no lease is never refused (R122, Table 8-2). -/
theorem State.refusal_passes {s : State} {m : Word16} {r : Request} (hu : ∀ c, r ≠ .unknown c)
    (hp : ∀ b, passesDuring b r = true) (hl : needsLease r = false) (ha : argumentsOk r = true) :
    s.refusal m r = none := by
  unfold State.refusal
  split
  · next c => exact absurd rfl (hu c)
  · rw [if_neg (fun hh => by rw [hp] at hh; exact absurd hh.2 (by decide)), if_neg (by simp [hl]), if_pos ha]

/-- A request row brings its request to the agent, an UNKNOWN_REQUEST row one of an unknown code among them (R120). -/
theorem Asks.exec_eq {m t : Word16} {c : Instr} {r : Request} (h : Asks m t c r) (s : State) :
    exec c s = .next (whenRunning (fun s => s.agentRequest m t r) s) := by
  cases h with
  | unknownRequest code h =>
    have e : byteAt (be16 m ++ [code]) 2 = code := rfl
    have hn : ∀ n : Nat, 1 ≤ n → n ≤ 15 → code ≠ BitVec.ofNat 8 n := by
      rintro n h1 h2 rfl
      rcases h with h | h
      · rw [BitVec.toNat_ofNat] at h; omega
      · have := congrArg BitVec.toNat h; rw [BitVec.toNat_ofNat] at this; simp at this; omega
    have hc : ∀ n : Nat, 1 ≤ n → n ≤ 15 → (code = BitVec.ofNat 8 n) = False := fun n a b => eq_false (hn n a b)
    have hr : requestOfPayload (be16 m ++ [code]) = .unknown code := by
      unfold requestOfPayload
      simp only [e, hc 1, hc 2, hc 3, hc 4, hc 5, hc 6, hc 7, hc 8, hc 9, hc 10, hc 11, hc 12, hc 13, hc 14, hc 15,
        Nat.reduceLeDiff, if_false]
    simp only [exec, execUnknownRequest, hr]
  | _ => rfl

/-- An answered request leaves its effect, the egress and the agent's turn, timer and cache alone (R119 to R121): from
an effect `v` on the state in which it was judged. -/
theorem answered {s v u : State} {m t : Word16} {code : Byte} {st : Status} {results : List Byte} (hv : Roomy v)
    (hp : results.length ≤ 126) (hu : ∀ a, ({ u with agent := a } : State) = { v with agent := a })
    (hg : v.globals.station = s.globals.station) (hb : v.agent.busy = true) (hr : v.agent.requests = u.agent.requests)
    (hf : v.agent.fullPending = u.agent.fullPending)
    (hl : v.agent.lease.map (fun l => l.holder) = u.agent.lease.map (fun l => l.holder))
    (hs : EgressOnly (v.answer m t code st results) (v.answer m t code st results).settle) :
    AgentOnly u (v.answer m t code st results).settle ∧
      (v.answer m t code st results).settle.agent = { v.agent with
        cache := if (v.holds m && cacheable st) = true then some ⟨t, responsePayload code st results⟩
          else v.agent.cache } ∧
      Responded s (v.answer m t code st results).settle t (responsePayload code st results) := by
  obtain ⟨e, a, x, hx, hxb⟩ := State.answer_spec hv m t code st hp
  have ea := hs.same.2.2.2.2.1
  refine ⟨⟨?_, ?_, ?_, ?_, ?_⟩, ?_, ⟨x, hx.settle, ?_⟩⟩
  · rw [hu, ea]
    exact e.trans hs
  · rw [ea, a]; exact hb
  · rw [ea, a]; exact hr
  · rw [ea, a]; exact hf
  · rw [ea, a]; exact hl
  · rw [ea, a]
  · rw [hxb, hg]

end Sys2Proof.Machine
end

