-- ==== Sys2Proof/Laws/Reception.lean ====
section
/-! SUPPORT. The receivers: what a symbol does on an UP port, what a receiver's grant gives, and what the end marker
of a whole frame comes to (Chapter 6). -/

namespace Sys2Proof.Machine

theorem State.linkUp_iff {s : State} {p : Port} : s.linkUp p = true ↔ ∃ errors, (s.port p).link = .up errors := by
  unfold State.linkUp Link.isUp
  cases (s.port p).link <;> simp

theorem State.bySymbol_up {s : State} {p : Port} {f : State → State} (h : s.linkUp p = true) :
    s.bySymbol p f = f s := by
  obtain ⟨errors, e⟩ := State.linkUp_iff.1 h
  simp [State.bySymbol, e]

theorem State.bySymbol_down {s : State} {p : Port} {f : State → State} (h : (s.port p).link = .down) :
    s.bySymbol p f = s := by simp [State.bySymbol, h]

theorem State.bySymbol_aligning {s : State} {p : Port} {f : State → State} {run : Nat} {r a : Bool}
    (h : (s.port p).link = .aligning run r a) :
    s.bySymbol p f = s.setPort p { s.port p with link := .aligning 0 r a } := by
  simp [State.bySymbol, State.breakRun, h]

/-- A receiver is granted the first free cell, above the reserve on a field port (R102). -/
theorem State.grantReceiver_some {s : State} {p : Port} {c : CellId} {rest : List CellId} (e : s.free = c :: rest)
    (h : p = .l ∨ 5 ≤ s.free.length) : s.grantReceiver p = some ([c], { s with free := rest }) := by
  cases p <;> simp_all [State.grantReceiver, State.grant, reserveCells]

/-- A receiver is refused in the reserve, on L when no cell is free (R102). -/
theorem State.grantReceiver_none {s : State} {p : Port} (h : p = .l ∧ s.free = [] ∨ p ≠ .l ∧ s.free.length ≤ 4) :
    s.grantReceiver p = none := by
  cases p <;> simp_all [State.grantReceiver, State.grant, reserveCells] <;> omega

theorem State.abandonMalformed_none {s : State} {p : Port} (h : (s.port p).reception = none) :
    s.abandonMalformed p = s := by simp [State.abandonMalformed, h]

/-- A reception abandoned as MALFORMED: cells, counter, fault (R91). -/
theorem State.abandonMalformed_some {s : State} {p : Port} {r : Reception} (h : (s.port p).reception = some r) :
    s.abandonMalformed p =
      (((s.setPort p { s.port p with reception := none }).returnCells r.cells).bumpPort p .malformed).raiseFault
        { kind := .malformed, port := some p } := by
  simp only [State.abandonMalformed, State.abandon, h]; rfl

@[simp] theorem State.frameTaken_lane (s : State) (p : Port) : (s.frameTaken p).lane = s.lane := rfl
@[simp] theorem State.frameTaken_classes (s : State) (p : Port) : (s.frameTaken p).classes = s.classes := rfl
@[simp] theorem State.frameTaken_command (s : State) (p : Port) : (s.frameTaken p).command = s.command := rfl
@[simp] theorem State.frameTaken_agent (s : State) (p : Port) : (s.frameTaken p).agent = s.agent := rfl
@[simp] theorem State.frameTaken_globals (s : State) (p : Port) : (s.frameTaken p).globals = s.globals := rfl
@[simp] theorem State.frameTaken_slots (s : State) (p : Port) : (s.frameTaken p).slots = s.slots := rfl
@[simp] theorem State.frameTaken_repair (s : State) (p : Port) : (s.frameTaken p).repair = s.repair := rfl
@[simp] theorem State.frameTaken_free (s : State) (p : Port) : (s.frameTaken p).free = s.free := rfl
@[simp] theorem State.frameTaken_faults (s : State) (p : Port) : (s.frameTaken p).faults = s.faults := rfl
@[simp] theorem State.frameTaken_stream (s : State) (p : Port) (k : Fin 64) : (s.frameTaken p).stream k = s.stream k :=
  rfl
@[simp] theorem State.frameTaken_held (s : State) (p : Port) (q : Fin 8) : (s.frameTaken p).held q = s.held q := rfl
@[simp] theorem State.frameTaken_queue (s : State) (p : Port) (q : QueueId) : (s.frameTaken p).queue q = s.queue q := by
  cases q <;> rfl

/-- The end marker after a whole frame: header check, kind, dispatch (R92). -/
theorem frameReceived_whole {s : State} {p : Port} {r : Reception} (hr : Receiving s p r) (hl : 26 ≤ r.bytes.length) :
    exec (.frameReceived p) s = .next ((s.frameTaken p).checkAndDispatch p ⟨r.bytes, r.cells⟩).settle := by
  have : ¬ r.bytes.length < minFrame := by unfold minFrame; omega
  simp only [exec, execFrameReceived, whenRunning_running hr.running, State.bySymbol_up hr.up, State.endMarker,
    hr.reception, if_neg this]
  rfl

/-- The end marker after a whole frame with a sound header and a known kind: dispatch by port (R92, Table 6-2). -/
theorem frameReceived_kind {s : State} {p : Port} {r : Reception} {k : Kind} (h : FrameEnds s p r k) :
    exec (.frameReceived p) s = .next ((s.frameTaken p).dispatch p ⟨r.bytes, r.cells⟩ k).settle := by
  rw [frameReceived_whole h.toReceiving h.long]
  simp only [State.checkAndDispatch, h.sound, h.kind, if_true]

/-- A slot is found by the field stream id it alone holds (R3, R15). -/
theorem State.lookup_found {s : State} {id : Id12} {k : Fin 64} {st : Stream} (h : FoundSlot s id k st) :
    s.lookup id = some k := by
  unfold State.lookup
  cases hf : allSlots.find? (fun k => (s.stream k).any (fun st => st.cfg.fieldId == id)) with
  | none =>
    have := List.find?_eq_none.1 hf k (by simp [allSlots]; exact ⟨k.val, k.isLt, by ext; simp⟩)
    simp [h.held, h.named] at this
  | some j =>
    have hj := List.find?_some hf
    cases hs : s.stream j with
    | none => simp [hs] at hj
    | some st' =>
      simp only [hs, Option.any_some, beq_iff_eq] at hj
      rw [h.only j st' hs hj]

/-- No slot is found by an id none holds (R15). -/
theorem State.lookup_none {s : State} {id : Id12} (h : ∀ k st, s.stream k = some st → st.cfg.fieldId ≠ id) :
    s.lookup id = none := by
  unfold State.lookup
  rw [List.find?_eq_none]
  intro k _
  cases hs : s.stream k with
  | none => simp
  | some st => simpa using h k st hs

/-- A DATA frame that ends on a field port for a found slot goes to that slot (R15, R17). -/
theorem dataFrame_found {s : State} {p : FPort} {r : Reception} {k : Fin 64} {st : Stream}
    (h : FrameEnds s (portOf p) r .data) (hf : FoundSlot s (frameId r.bytes) k st) :
    exec (.frameReceived (portOf p)) s = .next
      (if st.suspended then ((s.frameTaken (portOf p)).release ⟨r.bytes, r.cells⟩).bumpStream k .suspendedDrop
       else (s.frameTaken (portOf p)).activeCopy p k st ⟨r.bytes, r.cells⟩).settle := by
  rw [frameReceived_kind h]
  have hl : (s.frameTaken (portOf p)).lookup (frameId r.bytes) = some k := by
    apply State.lookup_found (st := st)
    exact ⟨hf.held, hf.named, hf.only⟩
  have hd : (s.frameTaken (portOf p)).dispatch (portOf p) ⟨r.bytes, r.cells⟩ .data =
      (s.frameTaken (portOf p)).dataCopy p ⟨r.bytes, r.cells⟩ := by cases p <;> rfl
  rw [hd]
  simp only [State.dataCopy, hl, State.frameTaken_stream, hf.held]

/-- A DATA copy of an ACTIVE slot that passes the format check is counted and routed (R39 to R43). -/
theorem copyEnds_routed {s : State} {p : FPort} {k : Fin 64} {st : Stream} {r : Reception} (h : CopyEnds s p k st r) :
    exec (.frameReceived (portOf p)) s = .next ((s.copyChecked p k st r).routeCopy (copyOf p k st r) st).settle := by
  rw [dataFrame_found h.toFrameEnds h.found]
  simp only [h.active, State.activeCopy, h.format, if_true]
  rfl

end Sys2Proof.Machine
end

