-- ==== Sys2Proof/Laws/Memory.lean ====
section
/-! SUPPORT. The laws of a bank: a read after a write, and the canonical form kept by every operation (R165,
R179). -/

namespace Sys2Proof.Machine

theorem Memory.wfFrom_mono {m : Memory} {lo lo' : Nat} (h : lo' ≤ lo) (w : Memory.wfFrom lo m = true) :
    Memory.wfFrom lo' m = true := by
  cases m with
  | nil => rfl
  | cons c rest =>
    obtain ⟨k, b⟩ := c
    simp only [Memory.wfFrom, Bool.and_eq_true, decide_eq_true_eq] at w ⊢
    exact ⟨⟨h.trans w.1.1, w.1.2⟩, w.2⟩

/-- Below its first address a bank reads erased. -/
theorem Memory.read_below {m : Memory} {lo a : Nat} (w : Memory.wfFrom lo m = true) (h : a < lo) :
    m.read a = erasedByte := by
  induction m generalizing lo with
  | nil => rfl
  | cons c rest ih =>
    obtain ⟨k, b⟩ := c
    simp only [Memory.wfFrom, Bool.and_eq_true, decide_eq_true_eq] at w
    simp only [Memory.read]
    rw [if_neg (by omega)]
    exact ih w.2 (by omega)

/-- A read after a write: the byte written there, the old byte elsewhere. -/
theorem Memory.read_write {m : Memory} {lo : Nat} (w : Memory.wfFrom lo m = true) (a x : Nat) (v : Byte) :
    (m.write a v).read x = if x = a then v else m.read x := by
  induction m generalizing lo with
  | nil =>
    simp only [Memory.write]
    split
    · next hv => subst hv; simp [Memory.read]
    · by_cases h : a = x <;> simp [Memory.read, h, eq_comm]
  | cons c rest ih =>
    obtain ⟨k, b⟩ := c
    simp only [Memory.wfFrom, Bool.and_eq_true, decide_eq_true_eq] at w
    simp only [Memory.write]
    split
    · next hak =>
      have hr : Memory.read ((k, b) :: rest) a = erasedByte := by
        simp only [Memory.read]
        rw [if_neg (by omega)]
        exact Memory.read_below w.2 (by omega)
      split
      · next hv =>
        by_cases hx : x = a
        · subst hx; rw [if_pos rfl, hr, hv]
        · rw [if_neg hx]
      · by_cases hx : x = a
        · subst hx; simp [Memory.read]
        · rw [if_neg hx]; simp only [Memory.read]; rw [if_neg (fun e => hx e.symm)]
    · split
      · next hak =>
        subst hak
        split
        · next hv =>
          by_cases hx : x = a
          · subst hx; rw [if_pos rfl, Memory.read_below w.2 (by omega), hv]
          · rw [if_neg hx]; simp only [Memory.read]; rw [if_neg (fun e => hx e.symm)]
        · by_cases hx : x = a
          · subst hx; simp [Memory.read]
          · rw [if_neg hx]; simp only [Memory.read]; rw [if_neg (fun e => hx e.symm), if_neg (fun e => hx e.symm)]
      · simp only [Memory.read]
        by_cases hk : k = x
        · rw [if_pos hk, if_pos hk, if_neg (by omega)]
        · rw [if_neg hk, if_neg hk]; exact ih w.2

theorem Memory.wfFrom_write {m : Memory} {lo : Nat} (w : Memory.wfFrom lo m = true) {a : Nat} (h : lo ≤ a) (v : Byte) :
    Memory.wfFrom lo (m.write a v) = true := by
  induction m generalizing lo with
  | nil =>
    simp only [Memory.write]
    split
    · rfl
    · next hv => simp [Memory.wfFrom, h, hv]
  | cons c rest ih =>
    obtain ⟨k, b⟩ := c
    have w' := w
    simp only [Memory.wfFrom, Bool.and_eq_true, decide_eq_true_eq, bne_iff_ne] at w
    simp only [Memory.write]
    split
    · split
      · exact w'
      · next hak hv => simp [Memory.wfFrom, h, hv, w.1.2, w.2]; omega
    · split
      · next hak =>
        split
        · exact Memory.wfFrom_mono (by omega) w.2
        · next hv => simp [Memory.wfFrom, hv, w.2, w.1.1]
      · simp only [Memory.wfFrom, Bool.and_eq_true, decide_eq_true_eq, bne_iff_ne]
        exact ⟨⟨w.1.1, w.1.2⟩, ih w.2 (by omega)⟩

/-- A write keeps the canonical form. -/
theorem Memory.wf_write {m : Memory} (w : m.wf = true) (a : Nat) (v : Byte) : (m.write a v).wf = true :=
  Memory.wfFrom_write w (Nat.zero_le a) v

theorem Memory.mem_write {m : Memory} {a : Nat} {v : Byte} {c : Host.Cell} (h : c ∈ m.write a v) :
    c ∈ m ∨ c = (a, v) := by
  induction m with
  | nil =>
    simp only [Memory.write] at h
    split at h
    · cases h
    · simpa using h
  | cons d rest ih =>
    obtain ⟨k, b⟩ := d
    simp only [Memory.write] at h
    split at h
    · split at h
      · exact .inl h
      · rcases List.mem_cons.1 h with rfl | h
        · exact .inr rfl
        · exact .inl h
    · split at h
      · next hak =>
        subst hak
        split at h
        · exact .inl (List.mem_cons_of_mem _ h)
        · rcases List.mem_cons.1 h with rfl | h
          · exact .inr rfl
          · exact .inl (List.mem_cons_of_mem _ h)
      · rcases List.mem_cons.1 h with rfl | h
        · exact .inl (List.mem_cons_self ..)
        · rcases ih h with h | h
          · exact .inl (List.mem_cons_of_mem _ h)
          · exact .inr h

theorem Memory.sound_write {m : Memory} (w : m.Sound) {a : Nat} (h : a < bankSize) (v : Byte) :
    (m.write a v).Sound := by
  refine ⟨Memory.wf_write w.1 a v, fun c hc => ?_⟩
  rcases Memory.mem_write hc with hc | rfl
  · exact w.2 c hc
  · exact h

/-- Replacing bytes within the bank keeps it sound. -/
theorem Memory.sound_patch {m : Memory} (w : m.Sound) {l : List (Nat × Byte)} (h : ∀ c ∈ l, c.1 < bankSize) :
    (m.patch l).Sound := by
  induction l generalizing m with
  | nil => exact w
  | cons c l ih =>
    exact ih (Memory.sound_write w (h c (List.mem_cons_self ..)) c.2) (fun d hd => h d (List.mem_cons_of_mem _ hd))

theorem Memory.ofBytesFrom_spec (l : List Byte) (a : Nat) :
    Memory.wfFrom a (Memory.ofBytesFrom a l) = true ∧ ∀ c ∈ Memory.ofBytesFrom a l, c.1 < a + l.length := by
  induction l generalizing a with
  | nil => exact ⟨rfl, by simp [Memory.ofBytesFrom]⟩
  | cons b rest ih =>
    obtain ⟨hw, hb⟩ := ih (a + 1)
    simp only [Memory.ofBytesFrom]
    split
    · exact ⟨Memory.wfFrom_mono (by omega) hw, fun c hc => by have := hb c hc; simp only [List.length_cons]; omega⟩
    · next hv =>
      refine ⟨by simp [Memory.wfFrom, hv, hw], fun c hc => ?_⟩
      rcases List.mem_cons.1 hc with rfl | hc
      · simp
      · have := hb c hc; simp only [List.length_cons]; omega

/-- The bank that holds a list of bytes is sound, when the list is no longer than a bank. -/
theorem Memory.sound_ofBytes {l : List Byte} (h : l.length ≤ bankSize) : (Memory.ofBytes l).Sound := by
  obtain ⟨hw, hb⟩ := Memory.ofBytesFrom_spec l 0
  exact ⟨hw, fun c hc => by have := hb c hc; omega⟩

/-- An erased bank is sound. -/
theorem Memory.sound_nil : Memory.Sound [] := ⟨rfl, by simp⟩

/-- The bank that holds a list of bytes reads each byte at its place, and erased beyond them. -/
theorem Memory.read_ofBytesFrom (l : List Byte) (a i : Nat) :
    (Memory.ofBytesFrom a l).read (a + i) = l.getD i erasedByte := by
  induction l generalizing a i with
  | nil => rfl
  | cons b rest ih =>
    simp only [Memory.ofBytesFrom]
    cases i with
    | zero =>
      split
      · next hv =>
        rw [Memory.read_below (Memory.ofBytesFrom_spec rest (a + 1)).1 (by omega)]
        simp [hv]
      · simp [Memory.read]
    | succ i =>
      have e : a + (i + 1) = a + 1 + i := by omega
      split
      · rw [e, ih]; simp
      · rw [Memory.read, if_neg (by omega), e, ih]; simp

theorem Memory.read_ofBytes (l : List Byte) (i : Nat) : (Memory.ofBytes l).read i = l.getD i erasedByte := by
  simpa [Memory.ofBytes] using Memory.read_ofBytesFrom l 0 i

/-- A bank written whole reads back as written (R171). -/
theorem Memory.bytes_ofBytes {l : List Byte} (h : l.length = bankSize) : (Memory.ofBytes l).bytes = l := by
  apply List.ext_getElem
  · simp [Memory.bytes, h]
  · intro i h1 h2
    simp [Memory.bytes, Memory.read_ofBytes, List.getD, h2]

@[simp] theorem Memory.length_bytes (m : Memory) : m.bytes.length = bankSize := by simp [Memory.bytes]

/-- A bank cut short in its erase or write is sound. -/
theorem sound_cutBank (n : Nat) : (cutBank n).Sound := by
  unfold cutBank
  dsimp only
  split
  · exact Memory.sound_ofBytes (by simp)
  · exact Memory.sound_nil

/-- The banks of the reset state are in canonical form. -/
theorem reset_banks_sound (bk : BankId) : (State.reset.banks.get bk).Sound := by
  cases bk <;> exact Memory.sound_nil

/-! ### The check word -/

theorem byteAt_append_right (l r : List Byte) (i : Nat) : byteAt (l ++ r) (l.length + i) = byteAt r i := by
  simp [byteAt, List.getD_eq_getElem?_getD, List.getElem?_append_right]

/-- A check word is read back whole (R166). -/
theorem word32At_be32 (x : Word32) : word32At (be32 x) 0 = x := by
  simp only [word32At, word16At, byteAt, be32, List.getD_cons_succ, List.getD_cons_zero]
  ext i
  simp only [BitVec.getElem_append, BitVec.getElem_extractLsb']
  split <;> split <;> (rw [BitVec.getLsbD_eq_getElem] ; congr 1) <;> omega

/-- Content with a check word appended agrees exactly when the word is the content's (R166). -/
theorem checkAgrees_append {content : List Byte} (h : content.length = contentSize) (w : Word32) :
    checkAgrees (content ++ be32 w) = (crc32 content == w) := by
  have hw : word32At (content ++ be32 w) contentSize = word32At (be32 w) 0 := by
    simp only [word32At, word16At, ← h, Nat.add_assoc, byteAt_append_right]
    have := byteAt_append_right content (be32 w) 0
    rw [Nat.add_zero] at this
    rw [this]
  rw [checkAgrees, hw, word32At_be32, ← h, List.take_left]

/-- Feeding a 0 bit to a register that is not 0 leaves one that is not 0, the generator being odd. -/
theorem crcBit_ne_zero {r : Word32} (h : r ≠ 0#32) : crcBit 0x04C11DB7#32 r false ≠ 0#32 := by
  unfold crcBit
  intro e
  split at e
  · have := congrArg (fun x => x.getLsbD 0) e
    simp at this
  · next hm =>
    apply h
    have e' := congrArg BitVec.toNat e
    have hr : r.toNat < 2 ^ 31 := by
      simp only [bne_iff_ne, ne_eq, Bool.not_eq_false, BitVec.msb_eq_decide] at hm
      simpa using hm
    simp only [BitVec.toNat_shiftLeft, BitVec.toNat_ofNat, Nat.shiftLeft_eq] at e'
    apply BitVec.eq_of_toNat_eq
    simp only [BitVec.toNat_ofNat]
    omega

/-- The check word of bytes 00h is not 0 (R166: preset FFFFFFFFh). -/
theorem crc32_zeros (n : Nat) : crc32 (List.replicate n 0#8) ≠ 0#32 := by
  have h : ∀ (n : Nat) (r : Word32), r ≠ 0#32 →
      (List.replicate n (0#8 : Byte)).foldl (crcByte 0x04C11DB7#32) r ≠ 0#32 := by
    intro n
    induction n with
    | zero => intro r hr; exact hr
    | succ n ih =>
      intro r hr
      rw [List.replicate_succ, List.foldl_cons]
      refine ih _ ?_
      unfold crcByte
      simp only [List.foldl, BitVec.getLsbD_zero]
      iterate 8 refine crcBit_ne_zero ?_
      exact hr
  exact h n _ (by decide)

/-- A bank of bytes 00h is bad (R165, R166). -/
theorem condition_zeros : (Memory.ofBytes (List.replicate bankSize 0#8)).condition = .bad := by
  have hb : (Memory.ofBytes (List.replicate bankSize 0#8)).bytes = List.replicate bankSize 0#8 :=
    Memory.bytes_ofBytes (by simp)
  have e : List.replicate bankSize (0#8 : Byte) = List.replicate contentSize 0#8 ++ be32 0#32 := by
    have : be32 0#32 = List.replicate 4 (0#8 : Byte) := by decide
    rw [this, List.replicate_append_replicate]
    rfl
  have ha : checkAgrees (List.replicate bankSize 0#8) = false := by
    rw [e, checkAgrees_append List.length_replicate]
    exact beq_eq_false_iff_ne.2 (crc32_zeros contentSize)
  have hz : (List.replicate bankSize (0#8 : Byte)).all (fun b => b == erasedByte) = false := by
    rw [List.all_eq_false]
    exact ⟨0#8, List.mem_replicate.2 ⟨by decide, rfl⟩, by decide⟩
  unfold Memory.condition
  rw [hb, hz, ha]
  rfl

/-- The target of a failed read back is bad (R171). -/
theorem failedBank_bad (n : Nat) (m : Memory) : (failedBank n m).condition = .bad := by
  unfold failedBank
  split
  · assumption
  · split
    · assumption
    · exact condition_zeros

/-- A target that reads bad stays as read (R171). -/
theorem failedBank_asRead {n : Nat} {m : Memory} (h : m.condition = .bad) : failedBank n m = m := by
  simp only [failedBank, h, if_true]

/-- The target of a failed read back is sound when it reads so. -/
theorem sound_failedBank (n : Nat) {m : Memory} (h : m.Sound) : (failedBank n m).Sound := by
  unfold failedBank
  split
  · exact h
  · split
    · exact sound_cutBank n
    · exact Memory.sound_ofBytes (by simp)

end Sys2Proof.Machine
end

