-- ==== Sys2Proof/Laws/Resets.lean ====
section
/-! SUPPORT. The resets: the part right after one, and a save or seal cut short (R168, R169, R172). -/

namespace Sys2Proof.Machine

theorem State.interrupt_noJob {s : State} (h : s.op.job? = none) : s.interrupt = s := by
  unfold State.interrupt
  cases e : s.op <;> simp_all [Operation.job?]

/-- What an interruption does to a job: its target cut short in the erase and the write phase, as it is in the read
back; the operation is over (R172). -/
theorem State.interrupt_job {s : State} {j : BankJob} (h : s.op.job? = some j) :
    ∃ m n, s.interrupt = { s with banks := s.banks.set j.target m, freeIx := n, op := .idle } ∧
      ((j.phase = .readBack ∧ m = s.banks.get j.target) ∨ (j.phase ≠ .readBack ∧ m = cutBank s.freeIx)) := by
  have e : s.interrupt = s.cutJob j := by
    unfold State.interrupt
    cases e : s.op <;> simp_all [Operation.job?]
  rw [e]
  unfold State.cutJob
  cases hp : j.phase
  · exact ⟨_, _, rfl, .inr ⟨by simp, rfl⟩⟩
  · exact ⟨_, _, rfl, .inr ⟨by simp, rfl⟩⟩
  · refine ⟨_, s.freeIx, ?_, .inl ⟨rfl, rfl⟩⟩
    cases j.target <;> rfl

/-- A bank cut short is never valid (R172). -/
theorem cutBank_condition (n : Nat) : (cutBank n).condition ≠ .valid := by
  unfold cutBank
  dsimp only
  split
  · next h => rw [h]; decide
  · have : Memory.condition [] = .erased := by
      unfold Memory.condition
      rw [if_pos]
      simp [Memory.bytes, Memory.read]
    rw [this]; decide

/-- The load's fault carries the count, and nothing but the fault queue changes (R168). -/
theorem State.raiseLoadFault_spec {s : State} (hq : s.faults = []) :
    ∃ q, s.raiseLoadFault = { s with faults := q } ∧
      q.map (fun f => (f.kind, f.seq)) = (loadFault s.banks).toList.map (fun f => (f.kind, f.seq)) ∧
      (∀ f ∈ q, f.firstTime = s.count) ∧ q.length ≤ 1 := by
  unfold State.raiseLoadFault
  cases h : loadFault s.banks with
  | none => exact ⟨[], by rw [← hq], by simp, by simp, by simp⟩
  | some f =>
    have e : s.raiseFault f = { s with faults := [freshRecord f s.count] } := by
      simp [State.raiseFault, State.raiseFaultAt, mergesNewest, hq, faultLimit]
    exact ⟨[freshRecord f s.count], e, by simp [freshRecord], by simp [freshRecord], by simp⟩

/-- What the start-up load may write (R168, R169). -/
theorem State.startUpLoad_spec {s : State} (hq : s.faults = []) :
    ∃ q, s.startUpLoad =
      { s with
        imageState := imageStateOf s.banks, faults := q, generation := 1#16
        slots := (match newestBank s.banks with
          | some x => loadSlots (s.banks.get x)
          | none => Vector.replicate 64 none)
        globals := (match newestBank s.banks with
          | some x => loadGlobals (s.banks.get x)
          | none => Globals.default) } ∧
      q.map (fun f => (f.kind, f.seq)) = (loadFault s.banks).toList.map (fun f => (f.kind, f.seq)) ∧
      (∀ f ∈ q, f.firstTime = s.count) ∧ q.length ≤ 1 := by
  obtain ⟨q, e, h⟩ := State.raiseLoadFault_spec (s := { s with imageState := imageStateOf s.banks }) hq
  refine ⟨q, ?_, h⟩
  unfold State.startUpLoad
  rw [e]
  unfold State.installImage
  cases hb : newestBank s.banks <;> simp only

/-- What a reset leaves, field by field (R168). -/
theorem State.takeReset_spec (s : State) :
    ∃ q sl g, s.takeReset =
      { s.cleared .loading with imageState := imageStateOf s.banks, faults := q, slots := sl, globals := g } ∧
      q.map (fun f => (f.kind, f.seq)) = (loadFault s.banks).toList.map (fun f => (f.kind, f.seq)) ∧
      (∀ f ∈ q, f.firstTime.toNat ≤ 4) ∧ q.length ≤ 1 ∧
      sl = (match newestBank s.banks with
        | some x => loadSlots (s.banks.get x)
        | none => Vector.replicate 64 none) ∧
      g = (match newestBank s.banks with
        | some x => loadGlobals (s.banks.get x)
        | none => Globals.default) := by
  obtain ⟨q, e, h1, h2, h3⟩ := State.startUpLoad_spec (s := s.cleared .loading) rfl
  have hb : (s.cleared .loading).banks = s.banks := rfl
  rw [hb] at e h1
  have hg : (s.cleared .loading).generation = 1#16 := rfl
  have ht : ∀ f ∈ q, f.firstTime.toNat ≤ 4 := fun f hf => by
    rw [h2 f hf]
    exact Nat.zero_le 4
  refine ⟨q, _, _, ?_, h1, ht, h3, rfl, rfl⟩
  unfold State.takeReset
  rw [e, ← hg]
  dsimp only
  rw [hb]

/-- The stream a loaded slot holds is new: nothing remembered, counters zero (R18). -/
theorem loadSlot_new {locked : Bool} {l : List Byte} {st : Stream} (h : loadSlot locked l = some st) :
    ∃ suspended, st = newStream (imageConfig l) suspended locked := by
  unfold loadSlot at h
  split at h
  · cases h
  · cases h; exact ⟨_, rfl⟩
  · cases h; exact ⟨_, rfl⟩

theorem loadSlots_get (m : Memory) (k : Fin 64) :
    (loadSlots m)[k] = loadSlot m.sealedMark (slotBytes m.bytes k) := by
  simp [loadSlots]

/-- The part after a reset is fresh (R168, R169). -/
theorem State.takeReset_fresh (s : State) : FreshPart s s.takeReset := by
  obtain ⟨q, sl, g, e, hq, ht, _, hs, hg⟩ := s.takeReset_spec
  rw [e]
  refine FreshPart.mk rfl rfl rfl (by dsimp only) ?_ ?_ rfl ?_ ?_ ?_ ?_ ?_ ?_ rfl rfl hq ht rfl ?_ ⟨rfl, rfl, rfl⟩
  · intro h
    rw [h] at hs hg
    exact ⟨fun k => by simp [State.stream, hs], hg⟩
  · intro bk h
    rw [h] at hs hg
    refine ⟨fun k => ?_, hg⟩
    rw [← loadSlots_get]
    exact congrArg (fun v : Vector (Option Stream) 64 => v[k]) hs
  · intro q; simp [State.held, State.cleared, State.reset]
  · intro p; cases p <;> exact ⟨rfl, rfl, rfl⟩
  · intro p c; cases p <;> cases c <;> rfl
  · simp [State.cleared, State.reset, allCells]
  · intro q
    cases q with
    | lane => rfl
    | cls c => simp [State.queue, State.cleared, State.reset]
    | command p => cases p <;> rfl
  · exact ⟨rfl, rfl, rfl, rfl, rfl⟩
  · intro c; simp [State.globalCounter, State.cleared, State.reset]

/-! ### The stamp of the load's fault -/

/-- The reading falls within the load: 0 to 4, and not above the count (R154, R168). -/
theorem readingTime_le (n : Nat) (count : Word32) :
    (readingTime n count).toNat ≤ 4 ∧ (readingTime n count).toNat ≤ count.toNat := by
  have h : Config.loadReadTime n % 5 < 5 := Nat.mod_lt _ (by decide)
  have hc := count.isLt
  unfold readingTime
  rw [BitVec.toNat_ofNat, Nat.mod_eq_of_lt (by omega)]
  omega

/-- Stamping writes the stamps of the load's faults, and the index of the free values (R154, R168; log 9). -/
theorem State.stampLoadFault_spec (s : State) :
    ∃ time fx, time.toNat ≤ 4 ∧ time.toNat ≤ s.count.toNat ∧
      s.stampLoadFault = { s with faults := s.faults.map (FaultRecord.stampLoad time), freeIx := fx } := by
  refine ⟨readingTime s.freeIx s.count, ?_⟩
  unfold State.stampLoadFault
  split
  · exact ⟨_, (readingTime_le _ _).1, (readingTime_le _ _).2, rfl⟩
  · next h =>
    refine ⟨s.freeIx, (readingTime_le _ _).1, (readingTime_le _ _).2, ?_⟩
    have e : s.faults.map (FaultRecord.stampLoad (readingTime s.freeIx s.count)) = s.faults := by
      refine (List.map_congr_left fun f hf => ?_).trans (List.map_id s.faults)
      have hk : raisedByLoad f.kind ≠ true := fun hk => h (List.any_eq_true.2 ⟨f, hf, hk⟩)
      simp [FaultRecord.stampLoad, hk]
    rw [e]

/-! ### Detection -/

/-- A detection writes the ports alone (R87). -/
theorem State.detect_spec (s : State) (p : Port) : s.detect p = { s with ports := (s.detect p).ports } := by
  unfold State.detect; split <;> rfl

@[simp] theorem State.detect_phase (s : State) (p : Port) : (s.detect p).phase = s.phase := by
  rw [State.detect_spec]

@[simp] theorem State.detect_stream (s : State) (p : Port) (k : Fin 64) : (s.detect p).stream k = s.stream k := by
  rw [State.detect_spec]; rfl

@[simp] theorem State.detect_held (s : State) (p : Port) (r : Fin 8) : (s.detect p).held r = s.held r := by
  rw [State.detect_spec]; rfl

/-- The port a detection changes is its own, when it is DOWN with a signal in the running part (R87). -/
theorem State.detect_port (s : State) (p q : Port) : (s.detect p).port q =
    if q = p ∧ s.phase = .running ∧ (s.port p).signal = true ∧ (s.port p).link = .down then
      { s.port p with link := .aligning 0 false false }
    else s.port q := by
  unfold State.detect
  split
  · next h =>
    by_cases hq : q = p
    · subst hq; rw [if_pos ⟨rfl, h⟩]; simp
    · rw [if_neg (fun hh => hq hh.1)]
      exact s.port_setPort_other _ hq
  · next h => rw [if_neg (fun hh => h hh.2)]

theorem State.detect_port_other (s : State) {p q : Port} (h : q ≠ p) : (s.detect p).port q = s.port q := by
  rw [State.detect_port, if_neg (fun hh => h hh.1)]

theorem State.detect_port_down {s : State} {p : Port} (hp : s.phase = .running) (h : (s.port p).link = .down) :
    (s.detect p).port p =
      { s.port p with link := if (s.port p).signal = true then .aligning 0 false false else .down } := by
  rw [State.detect_port]
  by_cases hs : (s.port p).signal = true
  · rw [if_pos ⟨rfl, hp, hs, h⟩, if_pos hs]
  · rw [if_neg (fun hh => hs hh.2.2.1), if_neg hs, ← h]

/-- While no link is UP nothing follows at once. -/
theorem State.settle_unlinked {s : State} (h : ∀ p, s.linkUp p = false) : s.settle = s := by
  have feed : s.feedNotices = s := by
    unfold State.feedNotices
    cases s.notices with
    | nil => rfl
    | cons x r => simp [offerNotices, h .l]
  have start : ∀ p, s.startTx p = s := fun p => by simp [State.startTx, h p]
  unfold State.settle
  split
  · rw [feed, start, feed, start, start]
  · rfl

end Sys2Proof.Machine
end

