-- ==== Sys2Proof/Laws/Resolution.lean ====
section
/-! SUPPORT. What resolutions, discards and the loss of a link leave alone (Chapters 4 to 6): ports, lane, command
queues, what a stream is configured as, and which repair slots they empty. -/

namespace Sys2Proof.Machine

/-- What a stream is configured as and supervises is the same: configuration, lock, state, paths, interval timer. -/
structure SamePlan (a b : Stream) : Prop where
  cfg : b.cfg = a.cfg
  locked : b.locked = a.locked
  suspended : b.suspended = a.suspended
  paths : b.paths = a.paths
  intervalTimer : b.intervalTimer = a.intervalTimer

theorem SamePlan.refl (a : Stream) : SamePlan a a := ⟨rfl, rfl, rfl, rfl, rfl⟩

theorem SamePlan.trans {a b c : Stream} (h : SamePlan a b) (g : SamePlan b c) : SamePlan a c :=
  ⟨g.cfg.trans h.cfg, g.locked.trans h.locked, g.suspended.trans h.suspended, g.paths.trans h.paths,
    g.intervalTimer.trans h.intervalTimer⟩

/-- A slot holds a stream of the same plan, or is FREE in both. -/
def SameSlot : Option Stream → Option Stream → Prop
  | none, none => True
  | some a, some b => SamePlan a b
  | _, _ => False

theorem SameSlot.refl (a : Option Stream) : SameSlot a a := by
  cases a
  · trivial
  · exact SamePlan.refl _

theorem SameSlot.trans {a b c : Option Stream} (h : SameSlot a b) (g : SameSlot b c) : SameSlot a c := by
  cases a <;> cases b <;> cases c <;> first | trivial | exact absurd h id | exact absurd g id | exact SamePlan.trans h g

theorem SameSlot.map {f : Stream → Stream} (h : ∀ st, SamePlan st (f st)) (a : Option Stream) :
    SameSlot a (a.map f) := by
  cases a
  · trivial
  · exact h _

/-- What a resolution or a discard leaves alone, the repair slots apart. -/
structure Resolves (s t : State) : Prop where
  step : DataStep s t
  ports : t.ports = s.ports
  lane : t.lane = s.lane
  command : t.command = s.command
  serial : t.serial = s.serial
  slots : ∀ k, SameSlot (s.stream k) (t.stream k)

theorem Resolves.refl (s : State) : Resolves s s := ⟨.refl s, rfl, rfl, rfl, rfl, fun _ => .refl _⟩

theorem Resolves.trans {s t u : State} (a : Resolves s t) (b : Resolves t u) : Resolves s u :=
  ⟨a.step.trans b.step, b.ports.trans a.ports, b.lane.trans a.lane, b.command.trans a.command,
    b.serial.trans a.serial, fun k => (a.slots k).trans (b.slots k)⟩

theorem Resolves.port {s t : State} (h : Resolves s t) (p : Port) : t.port p = s.port p := by
  simp only [State.port, h.ports]

theorem Stream.bump_plan (c : StreamCtr) (st : Stream) : SamePlan st (st.bump c) := ⟨rfl, rfl, rfl, rfl, rfl⟩

theorem Stream.record_plan (seq : Word16) (m : Option FPort) (st : Stream) : SamePlan st (st.record seq m) := by
  unfold Stream.record
  split
  · exact ⟨rfl, rfl, rfl, rfl, rfl⟩
  · exact .refl st

theorem State.mapStream_resolves (s : State) (k : Fin 64) {f : Stream → Stream} (h : ∀ st, SamePlan st (f st)) :
    Resolves s (s.mapStream k f) := by
  refine ⟨s.mapStream_step k f, rfl, rfl, rfl, rfl, fun j => ?_⟩
  simp only [State.mapStream_eq, State.stream_setSlot]
  split
  · next e => subst e; exact SameSlot.map h _
  · exact .refl _

theorem State.bumpStream_resolves (s : State) (k : Fin 64) (c : StreamCtr) : Resolves s (s.bumpStream k c) :=
  s.mapStream_resolves k (Stream.bump_plan c)

theorem State.returnCells_resolves (s : State) (l : List CellId) : Resolves s (s.returnCells l) :=
  ⟨s.returnCells_step l, rfl, rfl, rfl, rfl, fun _ => .refl _⟩

theorem State.release_resolves (s : State) (f : Frame) : Resolves s (s.release f) := s.returnCells_resolves _

theorem State.bumpGlobal_resolves (s : State) (c : GlobalCtr) : Resolves s (s.bumpGlobal c) :=
  ⟨s.bumpGlobal_step c, rfl, rfl, rfl, rfl, fun _ => .refl _⟩

theorem State.setHeld_resolves (s : State) (r : Fin 8) (x : Option Held) : Resolves s (s.setHeld r x) :=
  ⟨s.setHeld_step r x, rfl, rfl, rfl, rfl, fun _ => .refl _⟩

theorem State.raiseFault_resolves (s : State) (f : FaultInfo) : Resolves s (s.raiseFault f) := by
  refine ⟨s.raiseFault_step f, ?_, ?_, ?_, ?_, fun k => ?_⟩ <;>
    (obtain ⟨q, o, n, l, g, e⟩ := s.raiseFault_spec f; rw [e])
  exact SameSlot.refl _

theorem State.raiseNotice_resolves (s : State) (b : NoticeBody) : Resolves s (s.raiseNotice b) := by
  refine ⟨s.raiseNotice_step b, ?_, ?_, ?_, ?_, fun k => ?_⟩ <;>
    (obtain ⟨n, l, g, e, _⟩ := s.raiseNotice_spec b; rw [e])
  exact SameSlot.refl _

theorem State.enqueueClass_resolves (s : State) (k : Fin 64) (c : Fin 4) (f : Frame) :
    Resolves s (s.enqueueClass k c f) := by
  unfold State.enqueueClass
  split
  · have a : Resolves s (s.enqueue (.cls c) ⟨f, .data⟩) := ⟨s.enqueue_step _ _, rfl, rfl, rfl, rfl, fun _ => .refl _⟩
    exact a.trans (State.bumpStream_resolves _ _ _)
  · exact ((s.release_resolves f).trans (State.bumpStream_resolves _ _ _)).trans (State.bumpGlobal_resolves _ _)

theorem State.forward_resolves (s : State) (x : Subject) (f : Frame) (n : Nat) (a b : Bool) :
    Resolves s (s.forward x f n a b) := by
  unfold State.forward
  split
  · exact s.release_resolves f
  · split
    · dsimp only
      split
      · exact (s.mapStream_resolves (f := fun st => { st with credits := (policed _).2 }) _
          (fun _ => ⟨rfl, rfl, rfl, rfl, rfl⟩)).trans (State.enqueueClass_resolves _ _ _ _)
      · exact (s.release_resolves f).trans (State.bumpStream_resolves _ _ _)
    · exact (s.release_resolves f).trans (State.bumpStream_resolves _ _ _)

theorem State.settleFrame_resolves (s : State) (x : Subject) (cfg : StreamConfig) :
    Resolves s (s.settleFrame x cfg) := by
  unfold State.settleFrame
  split
  · exact s.forward_resolves _ _ _ _ _
  · exact ((s.release_resolves _).trans (State.bumpStream_resolves _ _ _)).trans (State.raiseFault_resolves _ _)
  · exact ((s.returnCells_resolves _).trans (State.bumpStream_resolves _ _ _)).trans
      (State.forward_resolves _ _ _ _ _ _)
  · exact (s.bumpStream_resolves _ _).trans (State.forward_resolves _ _ _ _ _ _)

theorem State.resolve_resolves (s : State) (x : Subject) : Resolves s (s.resolve x) := by
  unfold State.resolve
  split
  · exact s.release_resolves _
  · exact (s.mapStream_resolves _ (Stream.record_plan _ _)).trans (State.settleFrame_resolves _ _ _)

theorem State.resolveHeld_resolves (s : State) (r : Fin 8) (e : Bool) : Resolves s (s.resolveHeld r e) := by
  unfold State.resolveHeld
  split
  · exact .refl s
  · exact (s.setHeld_resolves r none).trans (State.resolve_resolves _ _)

theorem State.discardHeld_resolves (s : State) (r : Fin 8) : Resolves s (s.discardHeld r) := by
  unfold State.discardHeld
  split
  · exact .refl s
  · exact ((s.setHeld_resolves r none).trans (State.release_resolves _ _)).trans (State.bumpStream_resolves _ _ _)

theorem Resolves.foldl {α : Type} (f : State → α → State) (h : ∀ s a, Resolves s (f s a)) (l : List α) (s : State) :
    Resolves s (l.foldl f s) := by
  induction l generalizing s with
  | nil => exact .refl s
  | cons a l ih => exact (h s a).trans (ih _)

theorem State.discardStream_resolves (s : State) (k : Fin 64) : Resolves s (s.discardStream k) := by
  refine Resolves.foldl _ (fun s r => ?_) _ _
  split
  · exact s.discardHeld_resolves r
  · exact .refl s

theorem State.discardAll_resolves (s : State) : Resolves s s.discardAll :=
  Resolves.foldl _ (fun s r => s.discardHeld_resolves r) _ _

theorem State.forceResolve_resolves (s : State) (p : FPort) : Resolves s (s.forceResolve p) := by
  refine Resolves.foldl _ (fun s r => ?_) _ _
  split
  · exact s.resolveHeld_resolves r _
  · exact .refl s

/-! ### Repair slots -/

theorem State.held_mapStream (s : State) (k : Fin 64) (f : Stream → Stream) (r : Fin 8) :
    (s.mapStream k f).held r = s.held r := rfl

theorem State.held_raiseFault (s : State) (f : FaultInfo) (r : Fin 8) : (s.raiseFault f).held r = s.held r := by
  obtain ⟨q, o, n, l, g, e⟩ := s.raiseFault_spec f
  rw [e]; rfl

theorem State.held_raiseNotice (s : State) (b : NoticeBody) (r : Fin 8) : (s.raiseNotice b).held r = s.held r := by
  obtain ⟨n, l, g, e, _⟩ := s.raiseNotice_spec b
  rw [e]; rfl

theorem State.held_enqueueClass (s : State) (k : Fin 64) (c : Fin 4) (f : Frame) (r : Fin 8) :
    (s.enqueueClass k c f).held r = s.held r := by
  unfold State.enqueueClass
  split <;> rfl

theorem State.held_forward (s : State) (x : Subject) (f : Frame) (n : Nat) (a b : Bool) (r : Fin 8) :
    (s.forward x f n a b).held r = s.held r := by
  unfold State.forward
  split
  · rfl
  · split
    · dsimp only
      split
      · exact State.held_enqueueClass _ _ _ _ _
      · rfl
    · rfl

theorem State.held_settleFrame (s : State) (x : Subject) (cfg : StreamConfig) (r : Fin 8) :
    (s.settleFrame x cfg).held r = s.held r := by
  unfold State.settleFrame
  split
  · exact State.held_forward _ _ _ _ _ _ _
  · exact State.held_raiseFault _ _ _
  · exact State.held_forward _ _ _ _ _ _ _
  · exact State.held_forward _ _ _ _ _ _ _

/-- A resolution touches no repair slot. -/
theorem State.held_resolve (s : State) (x : Subject) (r : Fin 8) : (s.resolve x).held r = s.held r := by
  unfold State.resolve
  split
  · rfl
  · exact State.held_settleFrame _ _ _ _

/-- Resolving a repair slot empties it and no other (R51, R53). -/
theorem State.held_resolveHeld (s : State) (r q : Fin 8) (e : Bool) :
    (s.resolveHeld r e).held q = if q = r then none else s.held q := by
  unfold State.resolveHeld
  split
  · next h =>
    split
    · next e => rw [e]; exact h
    · rfl
  · rw [State.held_resolve, State.held_setHeld]

/-- Discarding a repair slot empties it and no other (R56). -/
theorem State.held_discardHeld (s : State) (r q : Fin 8) :
    (s.discardHeld r).held q = if q = r then none else s.held q := by
  unfold State.discardHeld
  split
  · next h =>
    split
    · next e => rw [e]; exact h
    · rfl
  · exact State.held_setHeld _ _ _ _

/-- Emptying in turn the repair slots of a list that a test picks: each of them that the test picks is FREE after, the
others stand. -/
theorem held_foldl {f : State → Fin 8 → State} {test : Held → Bool}
    (h : ∀ s r q, (f s r).held q = if q = r ∧ (s.held r).any test = true then none else s.held q)
    (l : List (Fin 8)) (s : State) (q : Fin 8) :
    (l.foldl f s).held q = if q ∈ l ∧ (s.held q).any test = true then none else s.held q := by
  induction l generalizing s with
  | nil => simp
  | cons r l ih =>
    rw [List.foldl_cons, ih, h]
    by_cases hq : q = r
    · subst hq
      by_cases ht : (s.held q).any test = true <;> simp [ht]
    · simp [hq]

theorem mem_allRepair (q : Fin 8) : q ∈ allRepair := by revert q; decide

/-- Discarding a stream's repair slots empties just those (R55). -/
theorem State.held_discardStream (s : State) (k : Fin 64) (q : Fin 8) :
    (s.discardStream k).held q = if (s.held q).any (fun h => h.slot == k) = true then none else s.held q := by
  unfold State.discardStream
  rw [held_foldl (test := fun h => h.slot == k)]
  · simp [mem_allRepair]
  · intro s r q
    split
    · next h => rw [State.held_discardHeld]; simp [h]
    · next h => rw [if_neg (fun hh => h hh.2)]

/-- A forced resolution empties just the repair slots whose held port is `p` (R53). -/
theorem State.held_forceResolve (s : State) (p : FPort) (q : Fin 8) :
    (s.forceResolve p).held q = if (s.held q).any (fun h => h.port == p) = true then none else s.held q := by
  unfold State.forceResolve
  rw [held_foldl (test := fun h => h.port == p)]
  · simp [mem_allRepair]
  · intro s r q
    split
    · next h => rw [State.held_resolveHeld]; simp [h]
    · next h => rw [if_neg (fun hh => h hh.2)]

/-- Discarding every repair slot empties all (R56). -/
theorem State.held_discardAll (s : State) (q : Fin 8) : s.discardAll.held q = none := by
  unfold State.discardAll
  rw [held_foldl (test := fun _ => true)]
  · cases h : s.held q <;> simp [mem_allRepair]
  · intro s r q
    rw [State.held_discardHeld]
    by_cases hq : q = r
    · subst hq; cases h : s.held q <;> simp
    · simp [hq]

/-! ### The loss of a link -/

/-- Flushing a queue empties it and leaves alone ports, streams, repair slots and the other queues (R111). -/
structure Flushes (q : QueueId) (s t : State) : Prop where
  step : DataStep s t
  ports : t.ports = s.ports
  slots : t.slots = s.slots
  repair : t.repair = s.repair
  faults : t.faults = s.faults
  notices : t.notices = s.notices
  serial : t.serial = s.serial
  others : ∀ r, r ≠ q → t.queue r = s.queue r

theorem State.flushOne_frame (q : QueueId) (s : State) (x : Queued) :
    ∃ fr g l, State.flushOne q s x = { s with free := fr, globalCtrs := g, noticesLost := l } := by
  unfold State.flushOne
  have : ∃ fr, s.releaseFrom q x.frame = { s with free := fr } := by
    unfold State.releaseFrom
    cases q with
    | lane => exact ⟨_, rfl⟩
    | cls c => exact ⟨_, rfl⟩
    | command p =>
      show ∃ fr, s.releaseShared p x.frame = _
      unfold State.releaseShared
      split
      · exact ⟨s.free, rfl⟩
      · exact ⟨_, rfl⟩
  obtain ⟨fr, e⟩ := this
  rw [e]
  exact ⟨fr, _, _, rfl⟩

/-- A flush writes the queue, the pool, its counter and the lost count alone. -/
theorem State.flush_frame (s : State) (q : QueueId) :
    ∃ fr g l, s.flush q = { s.setQueue q [] with free := fr, globalCtrs := g, noticesLost := l } := by
  unfold State.flush
  generalize s.setQueue q [] = u
  generalize s.queue q = l
  induction l generalizing u with
  | nil => exact ⟨u.free, u.globalCtrs, u.noticesLost, rfl⟩
  | cons x l ih =>
    obtain ⟨fr, g, n, e⟩ := State.flushOne_frame q u x
    rw [List.foldl_cons, e]
    obtain ⟨fr', g', n', e'⟩ := ih { u with free := fr, globalCtrs := g, noticesLost := n }
    exact ⟨fr', g', n', by rw [e']⟩

theorem State.flush_flushes (s : State) (q : QueueId) : Flushes q s (s.flush q) ∧ (s.flush q).queue q = [] := by
  obtain ⟨fr, g, l, e⟩ := s.flush_frame q
  refine ⟨⟨s.flush_step q, ?_, ?_, ?_, ?_, ?_, ?_, fun r hr => ?_⟩, ?_⟩ <;> rw [e]
  · exact s.setQueue_ports q []
  · exact s.setQueue_slots q []
  · exact s.setQueue_repair q []
  · exact s.setQueue_faults q []
  · exact s.setQueue_notices q []
  · exact s.setQueue_serial q []
  · have := s.queue_setQueue_other (q := q) [] hr
    cases r <;> exact this
  · have := s.queue_setQueue_self q []
    cases q <;> exact this

/-- Abandoning a reception writes its port and the pool alone (R91). -/
theorem State.abandon_frame (s : State) (p : Port) (c : PortCtr) :
    ∃ fr, s.abandon p c = { s.setPort p { s.port p with
      reception := none
      counters := if (s.port p).reception.isSome = true then bumpAt (s.port p).counters (portCtrIdx c)
        else (s.port p).counters } with free := fr } := by
  unfold State.abandon
  cases h : (s.port p).reception with
  | none =>
    refine ⟨s.free, ?_⟩
    cases p <;>
      simp [State.setPort, PerPort.set, State.port, PerPort.get] <;> simp [State.port, PerPort.get] at h <;> rw [← h]
  | some r => refine ⟨s.free ++ r.cells, ?_⟩; cases p <;> rfl

/-- Cutting a transmission writes its port, the pool and the lost count alone (R97). -/
theorem State.cutTx_frame (s : State) (p : Port) :
    ∃ fr e l, s.cutTx p = { s.setPort p { s.port p with
      tx := none
      lastEnd := e
      counters := if (s.port p).tx.isSome = true then bumpAt (s.port p).counters (portCtrIdx .txAborted)
        else (s.port p).counters } with free := fr, noticesLost := l } := by
  unfold State.cutTx
  cases h : (s.port p).tx with
  | none =>
    refine ⟨s.free, (s.port p).lastEnd, s.noticesLost, ?_⟩
    cases p <;>
      simp [State.setPort, PerPort.set, State.port, PerPort.get] <;> simp [State.port, PerPort.get] at h <;> rw [← h]
  | some x =>
    have : ∃ fr, (s.closeTx p .cut).releaseTx p x.frame = { s.closeTx p .cut with free := fr } := by
      unfold State.releaseTx
      cases p with
      | l => exact ⟨_, rfl⟩
      | f0 =>
        show ∃ fr, State.releaseShared _ .f0 x.frame = _
        unfold State.releaseShared
        split
        · exact ⟨s.free, rfl⟩
        · exact ⟨_, rfl⟩
      | f1 =>
        show ∃ fr, State.releaseShared _ .f1 x.frame = _
        unfold State.releaseShared
        split
        · exact ⟨s.free, rfl⟩
        · exact ⟨_, rfl⟩
    obtain ⟨fr, e⟩ := this
    simp only [e]
    exact ⟨fr, some .cut, satAdd 16 s.noticesLost (keptLost x.origin), by cases p <;> rfl⟩

end Sys2Proof.Machine
end

