-- ==== Sys2Proof/Laws/Classify.lean ====
section
/-! SUPPORT. The classifier and the repair unit: which repair slot a copy meets, what the partition checks leave, and
the branches a copy takes after them (Chapters 2 to 4). -/

namespace Sys2Proof.Machine

variable {s : State} {p : FPort} {k : Fin 64} {st : Stream} {r : Reception}

/-! ### What the partition checks leave -/

theorem State.frameTaken_control (s : State) (p : Port) : SameControl s (s.frameTaken p) ∧
    (s.frameTaken p).lane = s.lane ∧ (s.frameTaken p).command = s.command := by
  refine ⟨?_, rfl, rfl⟩
  constructor <;> rfl

/-- Evidence writes its slot's path and, when that was LOST, the notice log (R77). -/
theorem State.evidence_spec (s : State) {k : Fin 64} {st : Stream} (h : s.stream k = some st) (p : FPort) :
    ∃ n l g, s.evidence k p = { s.setSlot k (some (st.setPath p (.up (some st.cfg.pathTimeout)))) with
      notices := n, noticesLost := l, globalCtrs := g } := by
  unfold State.evidence
  simp only [h, State.mapStream_eq, Option.map_some]
  split
  · next b _ =>
    obtain ⟨n, l, g, e, _⟩ := (s.setSlot k (some (st.setPath p (.up (some st.cfg.pathTimeout))))).raiseNotice_spec b
    exact ⟨n, l, g, by rw [e]⟩
  · exact ⟨s.notices, s.noticesLost, s.globalCtrs, rfl⟩

/-- What the stream of a copy's slot is after the partition checks (R42, R77). -/
def checkedStream (p : FPort) (st : Stream) (allGood : Bool) : Stream :=
  if allGood then (st.bump (.good p)).setPath p (.up (some st.cfg.pathTimeout)) else st.bump (.damaged p)

/-- The partition checks write their slot and the notice log alone (R42, R77). -/
theorem State.copyChecked_spec (h : CopyEnds s p k st r) :
    ∃ n l g, s.copyChecked p k st r =
      { (s.frameTaken (portOf p)).setSlot k (some (checkedStream p st (copyOf p k st r).allGood)) with
        notices := n, noticesLost := l, globalCtrs := g } := by
  have hk : (s.frameTaken (portOf p)).stream k = some st := h.found.held
  have hs : (copyOf p k st r).slot = k := rfl
  have hp : (copyOf p k st r).port = p := rfl
  unfold State.copyChecked State.countChecks checkedStream checkCounter
  rw [hs, hp]
  by_cases hg : (copyOf p k st r).allGood = true
  · simp only [if_pos hg, State.bumpStream_eq, hk, Option.map_some]
    obtain ⟨n, l, g, e⟩ := State.evidence_spec
      ((s.frameTaken (portOf p)).setSlot k (some (st.bump (.good p)))) (State.stream_setSlot_self _ k _) p
    refine ⟨n, l, g, ?_⟩
    rw [e]
    simp only [State.setSlot, Vector.set_set]
    rfl
  · simp only [if_neg hg, State.bumpStream_eq, hk, Option.map_some]
    exact ⟨s.notices, s.noticesLost, s.globalCtrs, rfl⟩

theorem State.copyChecked_stream (h : CopyEnds s p k st r) :
    (s.copyChecked p k st r).stream k = some (checkedStream p st (copyOf p k st r).allGood) := by
  obtain ⟨n, l, g, e⟩ := State.copyChecked_spec h
  rw [e]
  exact State.stream_setSlot_self _ k _

theorem State.copyChecked_other (h : CopyEnds s p k st r) {j : Fin 64} (hj : j ≠ k) :
    (s.copyChecked p k st r).stream j = s.stream j := by
  obtain ⟨n, l, g, e⟩ := State.copyChecked_spec h
  rw [e]
  exact State.stream_setSlot_other _ _ hj

theorem State.copyChecked_held (h : CopyEnds s p k st r) (q : Fin 8) :
    (s.copyChecked p k st r).held q = s.held q := by
  obtain ⟨n, l, g, e⟩ := State.copyChecked_spec h
  rw [e]; rfl

theorem State.copyChecked_linkUp (h : CopyEnds s p k st r) (q : Port) :
    (s.copyChecked p k st r).linkUp q = s.linkUp q := by
  obtain ⟨n, l, g, e⟩ := State.copyChecked_spec h
  rw [e]
  cases p <;> cases q <;> rfl

theorem State.copyChecked_queue (h : CopyEnds s p k st r) (q : QueueId) :
    (s.copyChecked p k st r).queue q = s.queue q := by
  obtain ⟨n, l, g, e⟩ := State.copyChecked_spec h
  rw [e]
  cases q <;> rfl

theorem State.copyChecked_fields (h : CopyEnds s p k st r) :
    (s.copyChecked p k st r).globals = s.globals ∧ (s.copyChecked p k st r).faults = s.faults ∧
      (s.copyChecked p k st r).agent = s.agent ∧ (s.copyChecked p k st r).repair = s.repair ∧
      (s.copyChecked p k st r).generation = s.generation ∧ (s.copyChecked p k st r).free = s.free := by
  obtain ⟨n, l, g, e⟩ := State.copyChecked_spec h
  rw [e]
  exact ⟨rfl, rfl, rfl, rfl, rfl, rfl⟩

/-! ### Routing -/

/-- A pair that no repair slot holds meets none (R43). -/
theorem State.pairSlot_none {seq : Word16} (h : NotPending s k seq) : s.pairSlot k seq = none := by
  unfold State.pairSlot
  rw [List.find?_eq_none]
  intro q _
  cases hq : s.held q with
  | none => simp [holdsPair]
  | some x =>
    have := h q x hq
    simpa [holdsPair] using this

/-- A pair that one repair slot alone holds meets that one (R43, R44). -/
theorem State.pairSlot_held {seq : Word16} {q : Fin 8} {x : Held} (hq : s.held q = some x) (hk : x.slot = k)
    (hs : x.seq = seq) (only : ∀ q' x', s.held q' = some x' → x'.slot = k → x'.seq = seq → q' = q) :
    s.pairSlot k seq = some q := by
  unfold State.pairSlot
  cases hf : allRepair.find? (fun r => holdsPair k seq (s.held r)) with
  | none =>
    have := List.find?_eq_none.1 hf q (mem_allRepair q)
    simp [hq, holdsPair, hk, hs] at this
  | some q' =>
    have h' := List.find?_some hf
    cases hx : s.held q' with
    | none => simp [hx, holdsPair] at h'
    | some x' =>
      simp only [hx, holdsPair, Option.any_some, Bool.and_eq_true, beq_iff_eq] at h'
      rw [only q' x' hx h'.1 h'.2]

/-- A copy whose pair is not pending goes to the history unit (R43). -/
theorem copyEnds_classified (h : CopyEnds s p k st r) (hn : NotPending s k (frameSeq r.bytes)) :
    exec (.frameReceived (portOf p)) s = .next
      ((s.copyChecked p k st r).classifyCopy (copyOf p k st r) st).settle := by
  rw [copyEnds_routed h]
  have : (s.copyChecked p k st r).pairSlot (copyOf p k st r).slot (copyOf p k st r).seq = none :=
    State.pairSlot_none (fun q x hx => hn q x (by rw [← State.copyChecked_held h]; exact hx))
  simp only [State.routeCopy, this]

/-- A copy whose pair is pending meets the held copy (R43, R47 to R50). -/
theorem copyEnds_meets (h : CopyEnds s p k st r) {q : Fin 8} {x : Held} (hq : s.held q = some x) (hk : x.slot = k)
    (hs : x.seq = frameSeq r.bytes)
    (only : ∀ q' x', s.held q' = some x' → x'.slot = k → x'.seq = frameSeq r.bytes → q' = q) :
    exec (.frameReceived (portOf p)) s = .next
      ((s.copyChecked p k st r).meetHeld q x (copyOf p k st r) st.cfg).settle := by
  rw [copyEnds_routed h]
  have e : (s.copyChecked p k st r).pairSlot (copyOf p k st r).slot (copyOf p k st r).seq = some q :=
    State.pairSlot_held (by rw [State.copyChecked_held h]; exact hq) hk hs
      (fun q' x' hx => only q' x' (by rw [← State.copyChecked_held h]; exact hx))
  simp only [State.routeCopy, e, State.copyChecked_held h, hq]

/-! ### Good-maps and policies -/

theorem lowestBad_none {good : List Bool} : lowestBad good = none ↔ good.all id = true := by
  simp [lowestBad, List.findIdx?_eq_none_iff]

theorem lowestBad_some {good : List Bool} {j : Nat} (h : good[j]? = some false)
    (before : ∀ i, i < j → good[i]? = some true) : lowestBad good = some j := by
  unfold lowestBad
  rw [List.findIdx?_eq_some_iff_getElem]
  obtain ⟨hj, e⟩ := List.getElem?_eq_some_iff.1 h
  refine ⟨hj, by simp [e], fun i hi => ?_⟩
  obtain ⟨hi', e'⟩ := List.getElem?_eq_some_iff.1 (before i hi)
  simp [e']

/-! ### Resolution, branch by branch -/

/-- Step 3 of a resolution without L (R63). -/
theorem State.forward_lineDown {x : Subject} {f : Frame} {n : Nat} {a b : Bool} (hk : s.stream x.slot = some st)
    (hl : s.linkUp .l = false) : s.forward x f n a b = (s.returnCells f.cells).bumpStream x.slot .lineDown := by
  simp only [State.forward, hk, hl]; rfl

/-- Step 4 of a resolution without credits (R64). -/
theorem State.forward_policed {x : Subject} {f : Frame} {n : Nat} {a b : Bool} (hk : s.stream x.slot = some st)
    (hl : s.linkUp .l = true) (hb : st.cfg.burst ≠ 0#8) (hc : st.credits = 0#8) :
    s.forward x f n a b = (s.returnCells f.cells).bumpStream x.slot .policed := by
  simp only [State.forward, hk, hl, policed, if_neg hb, hc]; rfl

/-- Steps 5 and 6 of a resolution that passes policing (R70 to R73). -/
theorem State.forward_passes {x : Subject} {f : Frame} {n : Nat} {a b : Bool} {credits : Byte}
    (hk : s.stream x.slot = some st) (hl : s.linkUp .l = true) (hp : policed st = (true, credits)) :
    s.forward x f n a b =
      (s.mapStream x.slot (fun st => { st with credits := credits })).enqueueClass x.slot st.cfg.cls
        ⟨rewriteHeader f.bytes (flagByte b a x.merged (decide (st.pathsUp < 2)) x.via) n st.cfg.lineId s.stamp,
          f.cells⟩ := by
  simp only [State.forward, hk, hl, hp]; rfl

/-- Step 6 with room: the frame joins its class queue and counts FORWARDED (R73). -/
theorem State.enqueueClass_room {c : Fin 4} {f : Frame} (h : s.roomFor (.cls c) f.cells.length = true) :
    s.enqueueClass k c f = (s.enqueue (.cls c) ⟨f, .data⟩).bumpStream k .forwarded := by
  simp only [State.enqueueClass, h, if_true]

/-- Step 6 without room: CLASS_FULL (R73). -/
theorem State.enqueueClass_full {c : Fin 4} {f : Frame} (h : s.roomFor (.cls c) f.cells.length = false) :
    s.enqueueClass k c f = ((s.returnCells f.cells).bumpStream k .classFull).bumpGlobal (.classFull c) := by
  simp only [State.enqueueClass, h]; rfl

/-- A whole good frame is recorded and then forwarded (R62, R57). -/
theorem State.resolve_good {x : Subject} (hk : s.stream x.slot = some st) (hg : x.good.all id = true) :
    s.resolve x = (s.mapStream x.slot (Stream.record x.seq x.mark)).forward x x.frame x.good.length false false := by
  simp only [State.resolve, hk, State.settleFrame, policyOutcome, lowestBad_none.2 hg]

end Sys2Proof.Machine
end

