-- ==== Sys2Proof/Laws/Links.lean ====
section
/-! SUPPORT. The loss of a link, whole: on a field port and on L (Chapter 6). -/

namespace Sys2Proof.Machine

/-- An incremented counter (R159). -/
theorem bumpAt_same {n : Nat} (v : Vector Word32 n) (i : Fin n) : (bumpAt v i)[i] = satInc 32 v[i] := by simp [bumpAt]

/-- The other counters stand. -/
theorem bumpAt_other {n : Nat} (v : Vector Word32 n) {i j : Fin n} (h : i ≠ j) : (bumpAt v i)[j] = v[j] := by
  simp only [bumpAt, Fin.getElem_fin]
  exact Vector.getElem_set_ne _ _ (fun e => h (Fin.ext e))

/-- While L is not UP, what follows at once leaves the lane, the class queues, the notice queue and L's port alone. -/
theorem State.settle_lineDown {s : State} (hl : s.linkUp .l = false) :
    s.settle.lane = s.lane ∧ s.settle.classes = s.classes ∧ s.settle.notices = s.notices ∧
      s.settle.port .l = s.port .l := by
  refine (State.settle_induct (P := fun u => u.linkUp .l = false ∧ u.lane = s.lane ∧ u.classes = s.classes ∧ u.notices = s.notices ∧ u.port .l = s.port .l) ⟨hl, rfl, rfl, rfl, rfl⟩ ?_ ?_).2
  · intro u h
    have : u.feedNotices = u := by
      unfold State.feedNotices
      cases u.notices with
      | nil => rfl
      | cons x r => simp [offerNotices, h.1]
    rw [this]; exact h
  · intro u p h
    unfold State.startTx
    split
    · next hc =>
      split
      · next q hq =>
        have hp : p ≠ .l := by rintro rfl; simp [h.1] at hc
        obtain ⟨fp, rfl, rfl⟩ := State.txSource_field hp hq
        unfold State.sendHead
        split
        · exact h
        · cases fp <;> exact h
      · exact h
    · exact h
/-- What the loss of a field link comes to before a present signal is detected again (R53, R80, R97, R98): the port is
DOWN, without reception or transmission, its abandoned ones counted; its command queue is empty; the paths of ACTIVE
slots on it are LOST; the repair slots that awaited a twin from it are FREE. -/
theorem State.fieldLinkLoss_spec (s : State) (p : FPort) :
    ∃ u : State, s.fieldLinkLoss p = u.detect (portOf p) ∧ (u.port (portOf p)).link = .down ∧
      (u.port (portOf p)).reception = none ∧ (u.port (portOf p)).tx = none ∧ u.command.get p = [] ∧
      (u.port (portOf p)).signal = (s.port (portOf p)).signal ∧
      (u.port (portOf p)).counters =
        (fun v => if (s.port (portOf p)).tx.isSome = true then bumpAt v (portCtrIdx .txAborted) else v)
          (if (s.port (portOf p)).reception.isSome = true then
            bumpAt (s.port (portOf p)).counters (portCtrIdx .aborted) else (s.port (portOf p)).counters) ∧
      (∀ q, q ≠ portOf p → u.port q = s.port q) ∧
      (∀ k, SameSlot ((s.stream k).map (Stream.pathOnLinkLoss p s.count)) (u.stream k)) ∧
      (∀ r, u.held r = if (s.held r).any (fun h => h.port == otherPort p) = true then none else s.held r) ∧
      SameControl s u := by
  refine ⟨_, rfl, ?_⟩
  obtain ⟨fr, ea⟩ := (s.setLink (portOf p) .down).abandon_frame (portOf p) .aborted
  rw [ea]
  generalize hv : ({ State.setPort _ _ _ with free := fr } : State) = v
  have v1 : v.port (portOf p) = { s.port (portOf p) with link := .down, reception := none, counters := if (s.port (portOf p)).reception.isSome = true then bumpAt (s.port (portOf p)).counters (portCtrIdx .aborted) else (s.port (portOf p)).counters } := by
    rw [← hv]; cases p <;> rfl
  have v2 : ∀ q, q ≠ portOf p → v.port q = s.port q := by
    intro q hq; rw [← hv]; cases p <;> cases q <;> first | rfl | exact absurd rfl hq
  have v3 : v.slots = s.slots ∧ v.repair = s.repair ∧ v.count = s.count := by rw [← hv]; exact ⟨rfl, rfl, rfl⟩
  have v4 : SameControl s v := by rw [← hv]; constructor <;> rfl
  obtain ⟨fr2, e2, l2, ec⟩ := v.cutTx_frame (portOf p)
  rw [ec]
  generalize hw : ({ State.setPort _ _ _ with free := fr2, noticesLost := l2 } : State) = w
  have w1 : w.port (portOf p) = { v.port (portOf p) with tx := none, lastEnd := e2, counters := if (v.port (portOf p)).tx.isSome = true then bumpAt (v.port (portOf p)).counters (portCtrIdx .txAborted) else (v.port (portOf p)).counters } := by
    rw [← hw]; cases p <;> rfl
  have w2 : ∀ q, q ≠ portOf p → w.port q = v.port q := by
    intro q hq; rw [← hw]; cases p <;> cases q <;> first | rfl | exact absurd rfl hq
  have w3 : w.slots = v.slots ∧ w.repair = v.repair ∧ w.count = v.count := by rw [← hw]; exact ⟨rfl, rfl, rfl⟩
  have w4 : SameControl v w := by rw [← hw]; constructor <;> rfl
  obtain ⟨hf, hq⟩ := w.flush_flushes (.command p)
  generalize hx : w.flush (.command p) = x at *
  have hr := ((x.mapAllStreams (Stream.pathOnLinkLoss p x.count)).raiseNotice_resolves (.portDown p x.count (x.pathsToLose p))).trans (State.forceResolve_resolves _ (otherPort p))
  have hh : ∀ r, ((x.pathsLinkLoss p).forceResolve (otherPort p)).held r = _ := fun r => State.held_forceResolve _ _ _
  have hh2 : ∀ r, (x.pathsLinkLoss p).held r = x.held r := fun r => State.held_raiseNotice _ _ _
  generalize hy : (x.pathsLinkLoss p).forceResolve (otherPort p) = y at *
  change Resolves _ ((x.pathsLinkLoss p).forceResolve (otherPort p)) at hr
  rw [hy] at hr
  have yp : ∀ q, y.port q = w.port q := by
    intro q; rw [hr.port]; simp only [State.port_mapAllStreams]; simp only [State.port, hf.ports]
  have xc : x.count = s.count := by rw [hf.step.control.count, w3.2.2, v3.2.2]
  have xs : x.slots = s.slots := by rw [hf.slots, w3.1, v3.1]
  refine ⟨?_, ?_, ?_, ?_, ?_, ?_, ?_, ?_, ?_, ?_⟩
  · rw [yp, w1, v1]
  · rw [yp, w1, v1]
  · rw [yp, w1]
  · have := hr.command; rw [this]; exact hq
  · rw [yp, w1, v1]
  · rw [yp, w1, v1]
  · intro q hq; rw [yp, w2 q hq, v2 q hq]
  · intro k; have := hr.slots k
    simp only [State.stream_mapAllStreams, xc] at this
    simpa only [State.stream, xs] using this
  · intro r; rw [hh r, hh2 r]; simp only [State.held, hf.repair, w3.2.1, v3.2.1]; rfl
  · have a : SameControl x (x.mapAllStreams (Stream.pathOnLinkLoss p x.count)) := (x.mapAllStreams_step _).control
    exact v4.trans (w4.trans (hf.step.control.trans (a.trans hr.step.control)))


/-- What the loss of the line's link comes to before a pending reset is looked at (R100): the port is DOWN, without
reception or transmission; lane and class queues are empty; streams, repair slots, notices and faults stand. -/
theorem State.dropLine_spec (s : State) :
    let t := s.dropLine
    (t.port .l).link = .down ∧ (t.port .l).reception = none ∧ (t.port .l).tx = none ∧ t.lane = [] ∧
      (t.port .l).signal = (s.port .l).signal ∧ (∀ c, t.queue (.cls c) = []) ∧ t.slots = s.slots ∧
      t.repair = s.repair ∧ t.notices = s.notices ∧ t.faults = s.faults ∧ SameControl s t := by
  intro t
  have ht : t = s.dropLine := rfl
  unfold State.dropLine at ht
  obtain ⟨fr, ea⟩ := (s.setLink .l .down).abandon_frame .l .aborted
  rw [ea] at ht
  generalize hv : ({ State.setPort _ _ _ with free := fr } : State) = v at ht
  obtain ⟨fr2, e2, l2, ec⟩ := v.cutTx_frame .l
  rw [ec] at ht
  generalize hw : ({ State.setPort _ _ _ with free := fr2, noticesLost := l2 } : State) = w at ht
  have w1 : (w.port .l).link = .down ∧ (w.port .l).reception = none ∧ (w.port .l).tx = none ∧ (w.port .l).signal = (s.port .l).signal := by rw [← hw, ← hv]; exact ⟨rfl, rfl, rfl, rfl⟩
  have w3 : w.slots = s.slots ∧ w.repair = s.repair ∧ w.notices = s.notices ∧ w.faults = s.faults := by rw [← hw, ← hv]; exact ⟨rfl, rfl, rfl, rfl⟩
  have w4 : SameControl s w := by rw [← hw, ← hv]; constructor <;> rfl
  obtain ⟨a1, b1⟩ := w.flush_flushes .lane
  generalize w.flush .lane = x1 at *
  obtain ⟨a2, b2⟩ := x1.flush_flushes (.cls 0)
  generalize x1.flush (.cls 0) = x2 at *
  obtain ⟨a3, b3⟩ := x2.flush_flushes (.cls 1)
  generalize x2.flush (.cls 1) = x3 at *
  obtain ⟨a4, b4⟩ := x3.flush_flushes (.cls 2)
  generalize x3.flush (.cls 2) = x4 at *
  obtain ⟨a5, b5⟩ := x4.flush_flushes (.cls 3)
  rw [← ht] at a5 b5
  have ep : t.ports = w.ports := by rw [a5.ports, a4.ports, a3.ports, a2.ports, a1.ports]
  have ep' : t.port .l = w.port .l := by simp only [State.port, ep]
  rw [ep']
  refine ⟨w1.1, w1.2.1, w1.2.2.1, ?_, w1.2.2.2, ?_, ?_, ?_, ?_, ?_, ?_⟩
  · show t.queue .lane = []
    rw [a5.others _ (by simp), a4.others _ (by simp), a3.others _ (by simp), a2.others _ (by simp), b1]
  · intro c
    match c with
    | 0 => rw [a5.others _ (by simp), a4.others _ (by simp), a3.others _ (by simp), b2]
    | 1 => rw [a5.others _ (by simp), a4.others _ (by simp), b3]
    | 2 => rw [a5.others _ (by simp), b4]
    | 3 => exact b5
  · rw [a5.slots, a4.slots, a3.slots, a2.slots, a1.slots, w3.1]
  · rw [a5.repair, a4.repair, a3.repair, a2.repair, a1.repair, w3.2.1]
  · rw [a5.notices, a4.notices, a3.notices, a2.notices, a1.notices, w3.2.2.1]
  · rw [a5.faults, a4.faults, a3.faults, a2.faults, a1.faults, w3.2.2.2]
  · exact w4.trans (a1.step.control.trans (a2.step.control.trans (a3.step.control.trans (a4.step.control.trans a5.step.control))))


end Sys2Proof.Machine
end

