-- ==== Sys2Proof/Laws/Control.lean ====
section
/-! SUPPORT. What the agent, the commits and the save and seal phases may write: one lemma for each shared operation
(Chapters 8, 9 and 11). -/

namespace Sys2Proof.Machine

/-! ### Answers, wherever the response goes -/

/-- Placing a response writes the lane, the pool and RESPONSE_DROPPED alone (R108). -/
theorem State.place_frame (s : State) (t : Word16) (payload : List Byte) :
    ∃ ln fr g, s.place t payload = { s with lane := ln, free := fr, globalCtrs := g } := by
  unfold State.place State.tryPlace
  split
  · next h =>
    split at h
    · split at h
      · next hg =>
        obtain ⟨_, _, rfl⟩ := State.grant_spec hg
        cases h
        exact ⟨_, _, s.globalCtrs, rfl⟩
      · cases h
    · cases h
  · exact ⟨s.lane, s.free, _, rfl⟩

/-- An answer writes the lane, the pool, RESPONSE_DROPPED and the cache alone (R108, R121). -/
theorem State.answer_frame (s : State) (m t : Word16) (code : Byte) (st : Status) (results : List Byte) :
    ∃ ln fr g c, s.answer m t code st results =
      { s with lane := ln, free := fr, globalCtrs := g, agent := { s.agent with cache := c } } := by
  obtain ⟨ln, fr, g, e⟩ := s.place_frame t (responsePayload code st results)
  unfold State.answer
  rw [e]
  unfold State.cacheResponse
  split
  · exact ⟨ln, fr, g, _, rfl⟩
  · exact ⟨ln, fr, g, s.agent.cache, rfl⟩

/-- Placing a response leaves the agent alone, whether it finds room or not (R108). -/
theorem State.place_agent (s : State) (t : Word16) (payload : List Byte) : (s.place t payload).agent = s.agent := by
  obtain ⟨_, _, _, e⟩ := s.place_frame t payload
  rw [e]

/-- An answer leaves the lease and its timer alone (R120). -/
theorem State.answer_lease (s : State) (m t : Word16) (code : Byte) (st : Status) (results : List Byte) :
    (s.answer m t code st results).agent.lease = s.agent.lease := by
  obtain ⟨_, _, _, _, e⟩ := s.answer_frame m t code st results
  rw [e]

/-- Reports of frames not sent write the notices-lost count alone (R163). -/
theorem reportNotSent_foldl (l : List Queued) (s : State) :
    ∃ n, l.foldl (fun s x => s.reportNotSent x.origin) s = { s with noticesLost := n } := by
  induction l generalizing s with
  | nil => exact ⟨_, rfl⟩
  | cons x l ih => exact ih _

/-- Discarding repair slots writes the slots, the repair unit and the pool alone (R56). -/
theorem discardHeld_foldl (l : List (Fin 8)) (s : State) :
    ∃ sl rp fr, l.foldl (fun s r => s.discardHeld r) s = { s with slots := sl, repair := rp, free := fr } := by
  induction l generalizing s with
  | nil => exact ⟨_, _, _, rfl⟩
  | cons r l ih =>
    have h : ∃ sl rp fr, s.discardHeld r = { s with slots := sl, repair := rp, free := fr } := by
      unfold State.discardHeld
      split <;> exact ⟨_, _, _, rfl⟩
    obtain ⟨sl, rp, fr, e⟩ := h
    obtain ⟨sl', rp', fr', e'⟩ := ih (s.discardHeld r)
    exact ⟨sl', rp', fr', by rw [List.foldl_cons, e', e]⟩

/-- Everything a TRAFFIC reset writes (R134): slots, repair slots and the notices-lost count; every transmission and
reception ended, lane and queues empty, every cell free but those of the requests that wait. -/
theorem State.trafficReset_spec (s : State) :
    ∃ sl rp n, s.trafficReset = { s with
      slots := sl, repair := rp, noticesLost := n
      ports := ⟨trafficPort s.ports.f0, trafficPort s.ports.f1, trafficPort s.ports.l⟩
      lane := [], classes := Vector.replicate 4 [], command := ⟨[], []⟩
      free := allCells.filter (fun c => !s.requestCells.contains c) } := by
  have h : ∃ sl rp fr n, (s.discardAll.mapAllStreams Stream.trafficReset).reportReleased =
      { s with slots := sl, repair := rp, free := fr, noticesLost := n } := by
    unfold State.reportReleased State.discardAll
    obtain ⟨_, _, _, e⟩ := discardHeld_foldl allRepair s
    obtain ⟨_, e'⟩ := reportNotSent_foldl _ ((allRepair.foldl (fun s r => s.discardHeld r) s).mapAllStreams
      Stream.trafficReset)
    rw [e', e]
    exact ⟨_, _, _, _, rfl⟩
  obtain ⟨sl, rp, fr, n, e⟩ := h
  unfold State.trafficReset
  rw [e]
  exact ⟨sl, rp, n, rfl⟩

/-- A TRAFFIC reset keeps the control state, and bounds the logs as before (R134). -/
theorem State.trafficReset_step (s : State) : DataStep s s.trafficReset := by
  have h : ∀ (l : List Queued) (u : State), DataStep u (l.foldl (fun s x => s.reportNotSent x.origin) u) :=
    fun l u => DataStep.foldl _ (fun s x => s.reportNotSent_step x.origin) l u
  have a : DataStep s ((s.discardAll.mapAllStreams Stream.trafficReset).reportReleased) :=
    (s.discardAll_step.trans (State.mapAllStreams_step _ _)).trans (h _ _)
  unfold State.trafficReset
  dsimp only
  generalize (s.discardAll.mapAllStreams Stream.trafficReset).reportReleased = u at a
  exact a.trans ⟨by constructor <;> rfl, ⟨id, id⟩⟩

/-- The lane, the ports and the pool aside, what a RESET_PART FULL leaves: the part after a reset, or the cache taken
and the reset pending (R135). -/
theorem State.runResetFull_cases (s : State) (m t : Word16) (code : Byte) :
    s.runResetFull m t code = s.takeReset ∨
    ∃ ln fr c, s.runResetFull m t code =
      { s with lane := ln, free := fr, agent := { s.agent with cache := c, fullPending := true } } := by
  unfold State.runResetFull
  split
  · split
    · next h =>
      right
      unfold State.tryPlace at h
      split at h
      · split at h
        · next hg =>
          obtain ⟨_, _, rfl⟩ := State.grant_spec hg
          cases h
          dsimp only
          unfold State.cacheResponse
          split
          · exact ⟨_, _, _, rfl⟩
          · exact ⟨_, _, s.agent.cache, rfl⟩
        · cases h
      · cases h
    · exact .inl rfl
  · exact .inl rfl

/-! ### Staging and commits -/

/-- Staging a record never outgrows the area (R137). -/
theorem stageInto_length {area out : List Staged} {r : Staged} (h : stageInto area r = some out)
    (ha : area.length ≤ 16) : out.length ≤ 16 := by
  unfold stageInto at h
  split at h
  · cases h; simpa using ha
  · split at h
    · next hl =>
      cases h
      have : area.length < 16 := hl
      simp only [List.length_append, List.length_singleton]; omega
    · cases h

/-- The next generation is never 0 (R12). -/
theorem nextGeneration_ne_zero (g : Word16) : nextGeneration g ≠ 0#16 := by
  unfold nextGeneration
  split
  · decide
  · next h =>
    intro e
    apply h
    have := congrArg (fun x => x - 1#16) e
    simpa using this

/-- A record's effect writes globals, slots, and what a discard writes; nothing else (R145 to R150). -/
theorem State.applyRecord_spec (s : State) (r : Staged) :
    ∃ u g sl, Resolves s u ∧ s.applyRecord r = { u with globals := g, slots := sl } := by
  cases r with
  | globals f => exact ⟨s, _, s.slots, .refl s, rfl⟩
  | entry k act f =>
    by_cases h : discardsHeld act f (s.stream k) = true
    · exact ⟨s.discardStream k, (s.discardStream k).globals, _, s.discardStream_resolves k, by
        simp only [State.applyRecord, h, if_true]; rfl⟩
    · exact ⟨s, s.globals, _, .refl s, by simp only [State.applyRecord, h]; rfl⟩

/-- What the records of a commit leave alone, whatever they are (R145). -/
structure Applies (s t : State) : Prop where
  phase : t.phase = s.phase
  agent : t.agent = s.agent
  staging : t.staging = s.staging
  op : t.op = s.op
  banks : t.banks = s.banks
  imageState : t.imageState = s.imageState
  generation : t.generation = s.generation
  pending : t.pending = s.pending
  logs : KeepsLogs s t

theorem Applies.refl (s : State) : Applies s s := ⟨rfl, rfl, rfl, rfl, rfl, rfl, rfl, rfl, .refl s⟩

theorem Applies.trans {s t u : State} (a : Applies s t) (b : Applies t u) : Applies s u :=
  ⟨b.phase.trans a.phase, b.agent.trans a.agent, b.staging.trans a.staging, b.op.trans a.op, b.banks.trans a.banks,
    b.imageState.trans a.imageState, b.generation.trans a.generation, b.pending.trans a.pending, a.logs.trans b.logs⟩

theorem State.applyRecord_applies (s : State) (r : Staged) : Applies s (s.applyRecord r) := by
  obtain ⟨u, g, sl, h, e⟩ := s.applyRecord_spec r
  rw [e]
  have c := h.step.control
  exact ⟨c.phase, c.agent, c.staging, c.op, c.banks, c.imageState, c.generation, c.pending,
    ⟨h.step.logs.faults, h.step.logs.notices⟩⟩

theorem State.applyRecords_applies (s : State) (l : List Staged) : Applies s (l.foldl State.applyRecord s) := by
  induction l generalizing s with
  | nil => exact .refl s
  | cons r l ih => exact (s.applyRecord_applies r).trans (ih _)

/-- A commit end, APPLIED or REJECTED: the operation is over; an applied one counts the generation and empties the
staging area (R144, R145). -/
theorem State.endCommit_spec (s : State) (records : List Staged) (m : Word16) :
    ∃ u : State, Applies s u ∧ ∃ g sg l, s.endCommit records m =
        State.raiseNotice { u with generation := g, staging := sg, op := .idle, agent := { u.agent with lease := l } }
          (.commitDone (s.validate records) g records.length m) ∧
      ((g = s.generation ∧ sg = s.staging) ∨ (g = nextGeneration s.generation ∧ sg = [])) := by
  unfold State.endCommit
  cases hv : s.validate records with
  | applied =>
    have h := s.applyRecords_applies records
    refine ⟨_, h, _, _, _, rfl, .inr ⟨?_, rfl⟩⟩
    show nextGeneration (records.foldl State.applyRecord s).generation = _
    rw [h.generation]
  | rejected i r => exact ⟨s, .refl s, s.generation, s.staging, _, rfl, .inl ⟨rfl, rfl⟩⟩

/-! ### Saves and seals -/

/-- A save writes a whole bank (R170, R179). -/
theorem length_liveContent (s : State) (n : Word32) (mark : Byte) : (s.liveContent n mark).length = contentSize := by
  have hs : ∀ k : Fin 64, (slotImage (s.stream k)).length = 17 := by
    intro k
    unfold slotImage
    cases s.stream k <;> simp
  simp only [State.liveContent, List.length_append, List.length_cons, List.length_nil, length_be32, length_idBytes,
    length_flatMap_const length_be16, length_flatMap_const hs, Vector.length_toList]
  simp [allSlots, contentSize]

theorem State.saveJob_length (s : State) (m : Word16) : (s.saveJob m).bytes.length = bankSize := by
  simp [State.saveJob, withCheckWord, length_liveContent, contentSize, bankSize]

/-- A seal writes a whole bank (R173, R179). -/
theorem State.sealJob_length (s : State) (m : Word16) : (s.sealJob m).bytes.length = bankSize := by
  simp [State.sealJob, withCheckWord, sealedContent, contentSize, bankSize]

/-- The target of a job is not the bank it copies from. -/
theorem otherBank_ne (bk : BankId) : otherBank bk ≠ bk := by cases bk <;> decide

theorem Operation.job?_withJob {op : Operation} {j j' : BankJob} (h : op.job? = some j) :
    (op.withJob j').job? = some j' := by
  cases op <;> simp_all [Operation.job?, Operation.withJob]

/-- The erase phase's end writes the target and the job's phase alone (R171). -/
theorem State.eraseEnds_spec {s : State} {j : BankJob} (h : s.op.job? = some j) (hp : j.phase = .erase) :
    s.eraseEnds = { s with
      banks := s.banks.set j.target [], op := s.op.withJob { j with phase := .write } } := by
  simp only [State.eraseEnds, h, hp, if_true]
  rfl

/-- The write phase's end writes the target and the job's phase alone (R171). -/
theorem State.writeEnds_spec {s : State} {j : BankJob} (h : s.op.job? = some j) (hp : j.phase = .write) :
    s.writeEnds = { s with
      banks := s.banks.set j.target (Memory.ofBytes j.bytes)
      op := s.op.withJob { j with phase := .readBack } } := by
  simp only [State.writeEnds, h, hp, if_true]
  rfl

/-- A read back's end: the target as read or bad, SAVE_FAILED or not, the image state derived, the notice, the operation
over (R171, R174). -/
theorem State.readBackEnds_spec (s : State) (j : BankJob) (misread : List (Nat × Byte))
    (notice : Bool → ImageState → NoticeBody) :
    ∃ q o n l g ls fx, s.readBackEnds j misread notice =
      { s with
        banks := s.banks.set j.target (s.bankAfter j (s.asRead j misread))
        imageState := imageStateOf (s.banks.set j.target (s.bankAfter j (s.asRead j misread)))
        faults := q, overflow := o, notices := n, noticesLost := l, globalCtrs := g, op := .idle
        freeIx := fx, agent := { s.agent with lease := ls } } := by
  generalize hm : s.asRead j misread = m
  have hb : ∃ q o n l g fx, s.settleBank j m =
      { s with
        banks := s.banks.set j.target (s.bankAfter j m), freeIx := fx
        faults := q, overflow := o, notices := n, noticesLost := l, globalCtrs := g } := by
    unfold State.settleBank
    dsimp only
    split
    · exact ⟨s.faults, s.overflow, s.notices, s.noticesLost, s.globalCtrs, s.freeIx, rfl⟩
    · obtain ⟨q, o, n, l, g, e⟩ := ({ s.setBank j.target (s.bankAfter j m) with
        freeIx := s.freeIx + 1 } : State).raiseFault_spec { kind := .saveFailed, seq := some (bankNumber j.target) }
      exact ⟨q, o, n, l, g, s.freeIx + 1, by rw [e]; rfl⟩
  obtain ⟨q, o, n, l, g, fx, e⟩ := hb
  unfold State.readBackEnds
  simp only [hm, e, State.deriveImage]
  generalize s.bankAfter j m = m'
  generalize imageStateOf (s.banks.set j.target m') = i
  generalize notice (readBackOk j m) i = body
  obtain ⟨n', l', g', e', _⟩ := State.raiseNotice_spec { s with
    banks := s.banks.set j.target m', imageState := i, freeIx := fx
    faults := q, overflow := o, notices := n, noticesLost := l, globalCtrs := g } body
  rw [e']
  exact ⟨q, o, n', l', g', _, fx, rfl⟩

/-- A read back's end keeps the logs' bounds (R155, R161). -/
theorem State.readBackEnds_logs (s : State) (j : BankJob) (misread : List (Nat × Byte))
    (notice : Bool → ImageState → NoticeBody) : KeepsLogs s (s.readBackEnds j misread notice) := by
  have a : KeepsLogs s (s.settleBank j (s.asRead j misread)) := by
    unfold State.settleBank
    dsimp only
    split
    · exact ⟨id, id⟩
    · exact KeepsLogs.trans (t := { s.setBank j.target (s.bankAfter j (s.asRead j misread)) with
        freeIx := s.freeIx + 1 }) ⟨id, id⟩ (State.raiseFault_step _ _).logs
  unfold State.readBackEnds
  dsimp only
  generalize s.settleBank j (s.asRead j misread) = u at a ⊢
  have d : KeepsLogs s u.deriveImage := by
    exact ⟨by simpa using a.faults, by simpa using a.notices⟩
  generalize u.deriveImage = v at d ⊢
  have c := d.trans (v.raiseNotice_step (notice (readBackOk j (s.asRead j misread)) v.imageState)).logs
  exact ⟨c.faults, c.notices⟩

/-- No byte beyond a bank is named when the operand is not refused (log 23). -/
theorem badAddress_none {misread : List (Nat × Byte)} (h : badAddress misread = none) :
    ∀ c ∈ misread, c.1 < bankSize := by
  intro c hc
  simp only [badAddress, Option.map_eq_none_iff, List.find?_eq_none] at h
  have := h c hc
  simpa using this

/-! ### The take of a request -/

/-- What the take of a request may do to the control state, a FULL reset apart: staging stays within its places, and an
operation that begins has a whole bank to write and finds the image not sealed (R119 to R135). -/
structure AgentStep (s t : State) : Prop where
  phase : t.phase = s.phase
  banks : t.banks = s.banks
  imageState : t.imageState = s.imageState
  generation : t.generation = s.generation
  pending : t.pending = s.pending
  logs : KeepsLogs s t
  staging : s.staging.length ≤ 16 → t.staging.length ≤ 16
  requests : t.agent.requests = s.agent.requests
  op : t.op = s.op ∨ t.op.job? = none ∨
    ∃ j, t.op.job? = some j ∧ j.bytes.length = bankSize ∧ s.imageState ≠ .sealed

theorem AgentStep.refl (s : State) : AgentStep s s :=
  ⟨rfl, rfl, rfl, rfl, rfl, .refl s, id, rfl, .inl rfl⟩

theorem AgentStep.trans {s t u : State} (a : AgentStep s t) (b : AgentStep t u) : AgentStep s u := by
  refine ⟨b.phase.trans a.phase, b.banks.trans a.banks, b.imageState.trans a.imageState,
    b.generation.trans a.generation, b.pending.trans a.pending, a.logs.trans b.logs,
    fun h => b.staging (a.staging h), b.requests.trans a.requests, ?_⟩
  rcases b.op with h | h | ⟨j, h1, h2, h3⟩
  · rw [h]; exact a.op
  · exact .inr (.inl h)
  · exact .inr (.inr ⟨j, h1, h2, by rw [← a.imageState]; exact h3⟩)

theorem DataStep.agentStep {s t : State} (h : DataStep s t) : AgentStep s t :=
  ⟨h.control.phase, h.control.banks, h.control.imageState, h.control.generation, h.control.pending, h.logs,
    fun hs => by rw [h.control.staging]; exact hs, by rw [h.control.agent], .inl h.control.op⟩

theorem State.answer_agentStep (s : State) (m t : Word16) (code : Byte) (st : Status) (results : List Byte) :
    AgentStep s (s.answer m t code st results) := by
  obtain ⟨ln, fr, g, c, e⟩ := s.answer_frame m t code st results
  rw [e]
  exact ⟨rfl, rfl, rfl, rfl, rfl, ⟨id, id⟩, id, rfl, .inl rfl⟩

theorem State.place_agentStep (s : State) (t : Word16) (payload : List Byte) : AgentStep s (s.place t payload) := by
  obtain ⟨ln, fr, g, e⟩ := s.place_frame t payload
  rw [e]
  exact ⟨rfl, rfl, rfl, rfl, rfl, ⟨id, id⟩, id, rfl, .inl rfl⟩

theorem Reply.answer_agentStep {s : State} {r : Reply} (h : AgentStep s r.state) (m t : Word16) (code : Byte) :
    AgentStep s (r.answer m t code) := h.trans (State.answer_agentStep _ _ _ _ _ _)

/-- The operations a request begins (R124, R133). -/
theorem State.beginOperation_agentStep (s : State) {op : Operation}
    (h : op.job? = none ∨ ∃ j, op.job? = some j ∧ j.bytes.length = bankSize ∧ s.imageState ≠ .sealed) :
    AgentStep s (s.beginOperation op) :=
  ⟨rfl, rfl, rfl, rfl, rfl, ⟨id, id⟩, id, rfl, .inr h⟩

theorem State.runOpenSession_agentStep (s : State) (m : Word16) : AgentStep s (s.runOpenSession m).state := by
  unfold State.runOpenSession
  split
  · exact ⟨rfl, rfl, rfl, rfl, rfl, ⟨id, id⟩, id, rfl, .inl rfl⟩
  · split <;> exact .refl s

theorem State.runCloseSession_agentStep (s : State) (m : Word16) : AgentStep s (s.runCloseSession m).state := by
  unfold State.runCloseSession
  split
  · exact ⟨rfl, rfl, rfl, rfl, rfl, ⟨id, id⟩, fun _ => Nat.zero_le _, rfl, .inl rfl⟩
  · exact .refl s

theorem State.runReadStreamCounters_agentStep (s : State) (a b : Byte) :
    AgentStep s (s.runReadStreamCounters a b).state := by
  unfold State.runReadStreamCounters
  dsimp only
  split
  · exact .refl s
  · exact (s.mapStream_step _ _).agentStep

theorem State.runReadPortCounters_agentStep (s : State) (a b : Byte) :
    AgentStep s (s.runReadPortCounters a b).state := by
  unfold State.runReadPortCounters
  split
  · exact .refl s
  · unfold State.clearPage
    dsimp only
    split <;> exact ⟨rfl, rfl, rfl, rfl, rfl, ⟨id, id⟩, id, rfl, .inl rfl⟩

theorem State.runReadFaults_agentStep (s : State) (n : Byte) : AgentStep s (s.runReadFaults n).state := by
  refine ⟨rfl, rfl, rfl, rfl, rfl, ⟨fun h => ?_, id⟩, id, rfl, .inl rfl⟩
  show (s.faults.drop n.toNat).length ≤ _
  rw [List.length_drop]
  omega

theorem State.runStageEntry_agentStep (s : State) (a b c : Byte) (rec : EntryRecord) :
    AgentStep s (s.runStageEntry a b c rec).state := by
  unfold State.runStageEntry
  dsimp only
  generalize (if c = 1#8 then some (entryFields rec) else none) = fields
  split
  · exact .refl s
  · split
    · exact .refl s
    · split
      · exact .refl s
      · split
        · next h =>
          exact ⟨rfl, rfl, rfl, rfl, rfl, ⟨id, id⟩, stageInto_length h, rfl, .inl rfl⟩
        · exact .refl s

theorem State.runStageGlobals_agentStep (s : State) (rec : GlobalsRecord) :
    AgentStep s (s.runStageGlobals rec).state := by
  unfold State.runStageGlobals
  split
  · exact .refl s
  · split
    · next h => exact ⟨rfl, rfl, rfl, rfl, rfl, ⟨id, id⟩, stageInto_length h, rfl, .inl rfl⟩
    · exact .refl s

theorem State.runCommit_agentStep (s : State) (m : Word16) : AgentStep s (s.runCommit m).state := by
  unfold State.runCommit
  split
  · exact .refl s
  · exact s.beginOperation_agentStep (.inl rfl)

theorem State.runSaveImage_agentStep (s : State) (m : Word16) : AgentStep s (s.runSaveImage m).state := by
  unfold State.runSaveImage
  split
  · exact .refl s
  · next h => exact s.beginOperation_agentStep (.inr ⟨_, rfl, s.saveJob_length m, h⟩)

theorem State.runSealImage_agentStep (s : State) (m : Word16) : AgentStep s (s.runSealImage m).state := by
  unfold State.runSealImage
  split
  · exact .refl s
  · exact .refl s
  · exact .refl s
  · next h => exact s.beginOperation_agentStep (.inr ⟨_, rfl, s.sealJob_length m, by rw [h]; decide⟩)

/-- The execution of a request: an agent's step, or the FULL reset taken at once (R135). -/
theorem State.execute_cases (s : State) (m t : Word16) (r : Request) :
    AgentStep s (s.execute m t r) ∨ s.execute m t r = s.takeReset := by
  cases r with
  | identify => exact .inl (s.answer_agentStep _ _ _ _ _)
  | openSession => exact .inl (Reply.answer_agentStep (s.runOpenSession_agentStep m) _ _ _)
  | closeSession => exact .inl (Reply.answer_agentStep (s.runCloseSession_agentStep m) _ _ _)
  | readEntry slot => exact .inl (s.answer_agentStep _ _ _ _ _)
  | readStreamCounters a b => exact .inl (Reply.answer_agentStep (s.runReadStreamCounters_agentStep a b) _ _ _)
  | readPortCounters a b => exact .inl (Reply.answer_agentStep (s.runReadPortCounters_agentStep a b) _ _ _)
  | readFaults n => exact .inl (Reply.answer_agentStep (s.runReadFaults_agentStep n) _ _ _)
  | stageEntry a b c rec => exact .inl (Reply.answer_agentStep (s.runStageEntry_agentStep a b c rec) _ _ _)
  | stageGlobals rec => exact .inl (Reply.answer_agentStep (s.runStageGlobals_agentStep rec) _ _ _)
  | readStaging first => exact .inl (s.answer_agentStep _ _ _ _ _)
  | discardStaging =>
    have a : AgentStep s { s with staging := [] } :=
      ⟨rfl, rfl, rfl, rfl, rfl, ⟨id, id⟩, fun _ => Nat.zero_le _, rfl, .inl rfl⟩
    exact .inl (a.trans (State.answer_agentStep _ _ _ _ _ _))
  | commit => exact .inl (Reply.answer_agentStep (s.runCommit_agentStep m) _ _ _)
  | saveImage => exact .inl (Reply.answer_agentStep (s.runSaveImage_agentStep m) _ _ _)
  | sealImage => exact .inl (Reply.answer_agentStep (s.runSealImage_agentStep m) _ _ _)
  | resetPart kind =>
    by_cases h : kind = 1#8
    · simp only [State.execute, if_pos h]
      exact .inl (s.trafficReset_step.agentStep.trans (State.answer_agentStep _ _ _ _ _ _))
    · simp only [State.execute, if_neg h]
      rcases s.runResetFull_cases m t 15#8 with e | ⟨ln, fr, c, e⟩
      · exact .inr e
      · rw [e]
        exact .inl ⟨rfl, rfl, rfl, rfl, rfl, ⟨id, id⟩, id, rfl, .inl rfl⟩
  | unknown code => exact .inl (s.answer_agentStep _ _ _ _ _)

/-- The judging of a request (R120, R121). -/
theorem State.judge_cases (s : State) (m t : Word16) (r : Request) :
    AgentStep s (s.judge m t r) ∨ s.judge m t r = s.takeReset := by
  unfold State.judge
  split
  · exact .inl (s.place_agentStep _ _)
  · split
    · exact .inl (s.answer_agentStep _ _ _ _ _)
    · exact s.execute_cases m t r

/-- The take of a request: an agent's step, or the FULL reset taken at once in the state so begun (R119, R135). -/
theorem State.takeRequest_cases (s : State) (m t : Word16) (r : Request) :
    AgentStep s (s.takeRequest m t r) ∨ ∃ u, AgentStep s u ∧ s.takeRequest m t r = u.takeReset := by
  obtain ⟨l, e, _⟩ := s.begun_spec m
  have a : AgentStep s (s.beginTurn.touchLease m) := by
    rw [e]
    exact ⟨rfl, rfl, rfl, rfl, rfl, ⟨id, id⟩, id, rfl, .inl rfl⟩
  rcases State.judge_cases (s.beginTurn.touchLease m) m t r with h | h
  · exact .inl (a.trans h)
  · exact .inr ⟨_, a, h⟩

/-- The take of a request frame (R119, R120). -/
theorem State.takeFrame_cases (s : State) (f : List Byte) :
    AgentStep s (s.takeFrame f) ∨ ∃ u, AgentStep s u ∧ s.takeFrame f = u.takeReset := by
  unfold State.takeFrame
  split
  · exact s.takeRequest_cases _ _ _
  · have a : AgentStep s s.beginTurn := ⟨rfl, rfl, rfl, rfl, rfl, ⟨id, id⟩, id, rfl, .inl rfl⟩
    exact .inl (a.trans (State.place_agentStep _ _ _))

/-- What the agent may do with its request queue besides: as an agent's step, the queue no longer than its places. -/
structure QueueStep (s t : State) : Prop where
  phase : t.phase = s.phase
  banks : t.banks = s.banks
  imageState : t.imageState = s.imageState
  generation : t.generation = s.generation
  pending : t.pending = s.pending
  logs : KeepsLogs s t
  staging : s.staging.length ≤ 16 → t.staging.length ≤ 16
  requests : s.agent.requests.length ≤ 4 → t.agent.requests.length ≤ 4
  op : t.op = s.op ∨ t.op.job? = none ∨
    ∃ j, t.op.job? = some j ∧ j.bytes.length = bankSize ∧ s.imageState ≠ .sealed

theorem AgentStep.queueStep {s t : State} (h : AgentStep s t) : QueueStep s t :=
  ⟨h.phase, h.banks, h.imageState, h.generation, h.pending, h.logs, h.staging,
    fun hr => by rw [h.requests]; exact hr, h.op⟩

theorem QueueStep.trans {s t u : State} (a : QueueStep s t) (b : QueueStep t u) : QueueStep s u := by
  refine ⟨b.phase.trans a.phase, b.banks.trans a.banks, b.imageState.trans a.imageState,
    b.generation.trans a.generation, b.pending.trans a.pending, a.logs.trans b.logs,
    fun h => b.staging (a.staging h), fun h => b.requests (a.requests h), ?_⟩
  rcases b.op with h | h | ⟨j, h1, h2, h3⟩
  · rw [h]; exact a.op
  · exact .inr (.inl h)
  · exact .inr (.inr ⟨j, h1, h2, by rw [← a.imageState]; exact h3⟩)

/-- Either a step of the agent and its queue, or such a step and then a reset. -/
def Served (s t : State) : Prop := QueueStep s t ∨ ∃ u, QueueStep s u ∧ t = u.takeReset

theorem Served.of_agent {s v t : State} (a : QueueStep s v)
    (h : AgentStep v t ∨ ∃ u, AgentStep v u ∧ t = u.takeReset) : Served s t := by
  rcases h with h | ⟨u, h, e⟩
  · exact .inl (a.trans h.queueStep)
  · exact .inr ⟨u, a.trans h.queueStep, e⟩

/-- The agent, when it may, takes the oldest request (R108, R119). -/
theorem State.runAgent_served (s : State) : Served s s.runAgent := by
  unfold State.runAgent
  split
  · split
    · next f rest e =>
      refine Served.of_agent ?_ (State.takeFrame_cases _ _)
      refine ⟨rfl, rfl, rfl, rfl, rfl, ⟨id, id⟩, id, fun h => ?_, .inl rfl⟩
      rw [e] at h
      show rest.length ≤ 4
      simp only [List.length_cons] at h
      omega
    · exact .inl (AgentStep.refl s).queueStep
  · exact .inl (AgentStep.refl s).queueStep

theorem Served.after {s v t : State} (a : QueueStep s v) (h : Served v t) : Served s t := by
  rcases h with h | ⟨u, h, e⟩
  · exact .inl (a.trans h)
  · exact .inr ⟨u, a.trans h, e⟩

/-- A consumed request (R118, R119). -/
theorem State.consumeRequest_served (s : State) (f : Frame) : Served s (s.consumeRequest f) := by
  refine Served.after ?_ (State.runAgent_served _)
  unfold State.offerRequest
  split
  · next h =>
    refine ⟨rfl, rfl, rfl, rfl, rfl, ⟨id, id⟩, id, fun _ => ?_, .inl rfl⟩
    show (s.agent.requests ++ [f]).length ≤ 4
    have : s.agent.requests.length < 4 := h
    simp only [List.length_append, List.length_singleton]; omega
  · exact ((s.release_step f).trans (State.bumpGlobal_step _ _)).agentStep.queueStep

/-- A request that comes in its frame, whatever its take does to the state (R108, R119; log 6). -/
theorem State.requestComes_served {s : State} {bytes : List Byte} {take : State → State}
    (h : ∀ v, AgentStep v (take v) ∨ ∃ u, AgentStep v u ∧ take v = u.takeReset) :
    Served s (s.requestComes bytes take) := by
  unfold State.requestComes
  split
  · next hg =>
    have a := (State.grant_step hg).agentStep.queueStep
    split
    · exact Served.of_agent (a.trans (State.release_step _ _).agentStep.queueStep) (h _)
    · exact Served.after a (State.consumeRequest_served _ _)
  · exact .inl (s.poolEmpty_step _).agentStep.queueStep

/-- A request row of the table (R119; log 6). -/
theorem State.agentRequest_served (s : State) (m t : Word16) (r : Request) : Served s (s.agentRequest m t r) :=
  State.requestComes_served (fun v => v.takeRequest_cases m t r)

/-- The row BAD_FRAME (R120; log 6). -/
theorem State.agentFrame_served (s : State) (bytes : List Byte) : Served s (s.agentFrame bytes) :=
  State.requestComes_served (fun v => v.takeFrame_cases bytes)

/-- The end of the agent's turn (R119). -/
theorem State.endTurn_served (s : State) : Served s s.endTurn := by
  unfold State.endTurn
  split
  · refine Served.after ?_ (State.runAgent_served _)
    exact ⟨rfl, rfl, rfl, rfl, rfl, ⟨id, id⟩, id, id, .inl rfl⟩
  · exact .inl (AgentStep.refl s).queueStep

/-- A frame received on L (R94). -/
theorem State.dispatchLine_served (s : State) (f : Frame) (k : Kind) : Served s (s.dispatchLine f k) := by
  cases k with
  | data => exact .inl (s.lineData_step f).agentStep.queueStep
  | mgmtRsp => exact .inl (s.lineData_step f).agentStep.queueStep
  | mgmtNotice => exact .inl (s.lineData_step f).agentStep.queueStep
  | command => exact .inl (s.sendToField_step f).agentStep.queueStep
  | mgmtReq =>
    show Served s (if _ then _ else _)
    split
    · exact s.consumeRequest_served f
    · exact .inl (s.sendToField_step f).agentStep.queueStep

/-- A received frame, from its end marker on (R91, R92). -/
theorem State.endMarker_served (s : State) (p : Port) : Served s (s.endMarker p) := by
  unfold State.endMarker
  split
  · exact .inl (AgentStep.refl s).queueStep
  · next r _ =>
    split
    · exact .inl (s.abandonMalformed_step p).agentStep.queueStep
    · have a := ((s.setPort_step p { s.port p with reception := none }).trans
        (State.bumpPort_step _ p .framesReceived)).agentStep.queueStep
      refine Served.after (v := (s.setReception p none).bumpPort p .framesReceived) a ?_
      unfold State.receiveFrame
      generalize (s.setReception p none).bumpPort p .framesReceived = u
      unfold State.checkAndDispatch
      split
      · split
        · next k _ =>
          cases p with
          | f0 => exact .inl (u.dispatchField_step .f0 _ k).agentStep.queueStep
          | f1 => exact .inl (u.dispatchField_step .f1 _ k).agentStep.queueStep
          | l => exact u.dispatchLine_served _ k
        · exact .inl (u.headerError_step p _).agentStep.queueStep
      · exact .inl (u.headerError_step p _).agentStep.queueStep

/-! ### The lease -/

/-- A held lease and its timer stand through the judging of every request but the holder's CLOSE_SESSION, the holder's
requests that begin an operation, and the holder's FULL reset (R120 to R124). -/
theorem State.judge_lease {s : State} {l : Lease} {m t : Word16} {r : Request} (hl : s.agent.lease = some l)
    (hk : ∀ k, r = .resetPart k → k = 1#8 ∨ k = 2#8)
    (h : s.cachedFor m t ≠ none ∨ l.holder ≠ m ∨
      r ∉ [.closeSession, .commit, .saveImage, .sealImage, .resetPart 2#8]) :
    (s.judge m t r).agent.lease = s.agent.lease := by
  unfold State.judge
  split
  · rw [s.place_agent]
  · next hc =>
    split
    · exact s.answer_lease ..
    · next hr =>
      have h' : needsLease r = true ∨ r = .closeSession → l.holder ≠ m → r = .closeSession := by
        rintro (hn | rfl) hne
        · have hh : s.holds m = false := by simp [State.holds, hl, hne]
          exfalso
          unfold State.refusal at hr
          split at hr
          · cases hr
          · split at hr
            · cases hr
            · rw [if_pos (by simp [hn, hh])] at hr; cases hr
        · rfl
      have h2 : l.holder ≠ m ∨ r ∉ [.closeSession, .commit, .saveImage, .sealImage, .resetPart 2#8] := by
        rcases h with h | h
        · exact absurd hc h
        · exact h
      unfold State.execute
      cases r with
      | openSession =>
        show (Reply.answer _ _ _ _).agent.lease = _
        unfold Reply.answer State.runOpenSession
        simp only [State.answer_lease, hl]
        split <;> exact hl
      | closeSession =>
        have hne : l.holder ≠ m := by rcases h2 with h2 | h2 <;> simp_all
        have hh : s.holds m = false := by simp [State.holds, hl, hne]
        simp only [Reply.answer, State.answer_lease, State.runCloseSession, hh]
        rfl
      | readStreamCounters slot clear =>
        simp only [Reply.answer, State.answer_lease, State.runReadStreamCounters]
        split <;> rfl
      | readPortCounters clear page =>
        simp only [Reply.answer, State.answer_lease, State.runReadPortCounters, State.clearPage]
        split
        · rfl
        · show (ite _ _ _ : State).agent.lease = _
          split <;> rfl
      | stageEntry slot action present rec =>
        simp only [Reply.answer, State.answer_lease, State.runStageEntry]
        repeat' split
        all_goals rfl
      | stageGlobals rec =>
        simp only [Reply.answer, State.answer_lease, State.runStageGlobals]
        repeat' split
        all_goals rfl
      | commit => rcases h2 with h2 | h2; exact absurd (h' (.inl rfl) h2) (by simp); simp at h2
      | saveImage => rcases h2 with h2 | h2; exact absurd (h' (.inl rfl) h2) (by simp); simp at h2
      | sealImage => rcases h2 with h2 | h2; exact absurd (h' (.inl rfl) h2) (by simp); simp at h2
      | resetPart kind =>
        rcases h2 with h2 | h2
        · exact absurd (h' (.inl rfl) h2) (by simp)
        · have hk1 : kind = 1#8 := (hk kind rfl).resolve_right (by rintro rfl; simp at h2)
          simp only [hk1, if_true, State.answer_lease, s.trafficReset_step.control.agent]
      | readFaults n => exact State.answer_lease ..
      | _ => exact State.answer_lease ..

end Sys2Proof.Machine
end

