-- ==== Sys2Proof/Laws/PerInstr.lean ====
section
/-! SUPPORT. Per command: its operands' check (`Instr.wf`) says of a command exactly what the rules ask of its operands, one
lemma for each constructor. -/

namespace Sys2Proof.Laws.WellFormed

/-- The addresses of a read back: strictly rising, each a byte of a bank (R171, R179). -/
def ReadBackOk (l : List (Nat × Byte)) : Prop :=
  List.IsChain (fun a b => a.1 < b.1) l ∧ ∀ c ∈ l, c.1 < 1109

/-- What the rules ask of a command's operands beyond their types (R89, R92, R120, R171, R179). -/
def OperandsOk : Instr → Prop
  | .lineCodeError _ sub => sub < 25000
  | .badFrame bytes => 26 ≤ bytes.length ∧ bytes.length ≤ 1064
  | .unknownRequest _ _ code => code = 0#8 ∨ 15 < code.toNat
  | .saveEnd l => ReadBackOk l
  | .sealEnd l => ReadBackOk l
  | _ => True

/-- A command is well-formed exactly when its operands are as the rules ask. -/
def Statement (i : Instr) : Prop := i.wf = true ↔ OperandsOk i

theorem risingAddresses_iff : ∀ l : List (Nat × Byte),
    risingAddresses l = true ↔ List.IsChain (fun a b => a.1 < b.1) l
  | [] => by simp [risingAddresses]
  | [_] => by simp [risingAddresses]
  | (a, x) :: (b, y) :: rest => by
    simp [risingAddresses, risingAddresses_iff ((b, y) :: rest)]

theorem misreadOk_iff (l : List (Nat × Byte)) : misreadOk l = true ↔ ReadBackOk l := by
  rw [misreadOk, ReadBackOk, Bool.and_eq_true, risingAddresses_iff, List.all_eq_true]
  exact and_congr_right fun _ => forall₂_congr fun _ _ => decide_eq_true_iff

theorem powerOn : Statement .powerOn := iff_of_true rfl trivial
theorem powerLoss : Statement .powerLoss := iff_of_true rfl trivial
theorem rstnAsserted : Statement .rstnAsserted := iff_of_true rfl trivial
theorem pinReset (lowNs : Nat) : Statement (.pinReset lowNs) := iff_of_true rfl trivial
theorem startUpLoadEnd : Statement .startUpLoadEnd := iff_of_true rfl trivial
theorem signalDetected (p : Port) : Statement (.signalDetected p) := iff_of_true rfl trivial
theorem signalLost (p : Port) : Statement (.signalLost p) := iff_of_true rfl trivial
theorem alignmentWordReceived (p : Port) (ack : Bool) : Statement (.alignmentWordReceived p ack) :=
  iff_of_true rfl trivial
theorem alignmentTimerRunOut (p : Port) : Statement (.alignmentTimerRunOut p) := iff_of_true rfl trivial
theorem lineCodeError (p : Port) (sub : Nat) : Statement (.lineCodeError p sub) :=
  decide_eq_true_iff
theorem startMarkerReceived (p : Port) : Statement (.startMarkerReceived p) := iff_of_true rfl trivial
theorem dataByteReceived (p : Port) (b : Byte) : Statement (.dataByteReceived p b) := iff_of_true rfl trivial
theorem abortMarkerReceived (p : Port) : Statement (.abortMarkerReceived p) := iff_of_true rfl trivial
theorem frameReceived (p : Port) : Statement (.frameReceived p) := iff_of_true rfl trivial
theorem waitTimerRunOut (r : Fin 8) : Statement (.waitTimerRunOut r) := iff_of_true rfl trivial
theorem pathTimerRunOut (k : Fin 64) (p : FPort) : Statement (.pathTimerRunOut k p) := iff_of_true rfl trivial
theorem intervalTimerRunOut (k : Fin 64) : Statement (.intervalTimerRunOut k) := iff_of_true rfl trivial
theorem transmissionStart (p : Port) : Statement (.transmissionStart p) := iff_of_true rfl trivial
theorem transmissionEnd (p : Port) : Statement (.transmissionEnd p) := iff_of_true rfl trivial
theorem noticeOffer : Statement .noticeOffer := iff_of_true rfl trivial
theorem agentTurnEnd : Statement .agentTurnEnd := iff_of_true rfl trivial
theorem badFrame (bytes : List Byte) : Statement (.badFrame bytes) := by simp [Statement, Instr.wf, OperandsOk]
theorem unknownRequest (m t : Word16) (code : Byte) : Statement (.unknownRequest m t code) := by
  simp [Statement, Instr.wf, OperandsOk, knownRequestCode, ← BitVec.toNat_inj]
theorem identify (m t : Word16) : Statement (.identify m t) := iff_of_true rfl trivial
theorem openSession (m t : Word16) : Statement (.openSession m t) := iff_of_true rfl trivial
theorem closeSession (m t : Word16) : Statement (.closeSession m t) := iff_of_true rfl trivial
theorem readEntry (m t : Word16) (slot : Byte) : Statement (.readEntry m t slot) := iff_of_true rfl trivial
theorem readStreamCounters (m t : Word16) (slot clear : Byte) : Statement (.readStreamCounters m t slot clear) :=
  iff_of_true rfl trivial
theorem readPortCounters (m t : Word16) (clear page : Byte) : Statement (.readPortCounters m t clear page) :=
  iff_of_true rfl trivial
theorem readFaults (m t : Word16) (maximum : Byte) : Statement (.readFaults m t maximum) := iff_of_true rfl trivial
theorem stageEntry (m t : Word16) (slot action cfgPresent : Byte) (rec : EntryRecord) : Statement (.stageEntry m t slot action cfgPresent rec) :=
  iff_of_true rfl trivial
theorem stageGlobals (m t : Word16) (rec : GlobalsRecord) : Statement (.stageGlobals m t rec) :=
  iff_of_true rfl trivial
theorem readStaging (m t : Word16) (first : Byte) : Statement (.readStaging m t first) := iff_of_true rfl trivial
theorem discardStaging (m t : Word16) : Statement (.discardStaging m t) := iff_of_true rfl trivial
theorem commit (m t : Word16) : Statement (.commit m t) := iff_of_true rfl trivial
theorem saveImage (m t : Word16) : Statement (.saveImage m t) := iff_of_true rfl trivial
theorem sealImage (m t : Word16) : Statement (.sealImage m t) := iff_of_true rfl trivial
theorem resetPartTraffic (m t : Word16) : Statement (.resetPartTraffic m t) := iff_of_true rfl trivial
theorem resetPartFull (m t : Word16) : Statement (.resetPartFull m t) := iff_of_true rfl trivial
theorem fullReset : Statement .fullReset := iff_of_true rfl trivial
theorem commitEnd : Statement .commitEnd := iff_of_true rfl trivial
theorem leaseTimerRunOut : Statement .leaseTimerRunOut := iff_of_true rfl trivial
theorem bankEraseEnd : Statement .bankEraseEnd := iff_of_true rfl trivial
theorem bankWriteEnd : Statement .bankWriteEnd := iff_of_true rfl trivial
theorem saveEnd (misread : List (Nat × Byte)) : Statement (.saveEnd misread) := misreadOk_iff misread
theorem sealEnd (misread : List (Nat × Byte)) : Statement (.sealEnd misread) := misreadOk_iff misread
theorem millisecondCountTick : Statement .millisecondCountTick := iff_of_true rfl trivial

end Sys2Proof.Laws.WellFormed
end

