-- ==== Sys2Proof/Tests/Slice0.lean ====
section
/-! SUPPORT. Tests of one step each on small states; expected values are taken from the worked examples and tables of
spec/, named at each test. After them, a witness for each statement's hypotheses. -/

namespace Sys2Proof.Tests

set_option Elab.async false

open Sys2Proof Sys2Proof.Machine

/-! ### States the tests start from -/

/-- A port with its link UP and nothing in it. -/
def upPort : PortState := { PortState.reset with signal := true, link := .up [] }

/-- The running part, every link UP. -/
def running : State := { State.reset with phase := .running, ports := ⟨upPort, upPort, upPort⟩ }

/-- The state a command answers. -/
def after (c : Instr) (s : State) : State :=
  match exec c s with
  | .next t => t
  | .fault _ => s
  | .refused _ => s

/-- The configuration of 4.6's stream, with 16-byte partitions to keep the tests small. -/
def cfg : StreamConfig :=
  { fieldId := 520#12, lineId := 77#12, size := .p16, policy := .trim, twinWait := 200#16, jumpLimit := 64#16,
    resyncRun := 3#8, pathTimeout := 20#8, cls := 2, burst := 0#8, interval := 10#8 }

/-- 4.6's stream: F0 path UP, F1 path FRESH, top 7199. -/
def stream : Stream :=
  { suspended := false, locked := false, cfg := cfg, history := some ⟨7199#16, [⟨7199#16, none⟩]⟩, candidate := none,
    paths := ⟨.up (some 20#8), .fresh⟩, credits := 0#8, intervalTimer := none, counters := Vector.replicate 21 0#32 }

/-- A partition of 16 bytes with a good or a bad check. -/
def part (good : Bool) : List Byte :=
  let p := List.replicate 16 0x5A#8
  p ++ be16 (if good then crc16 p else crc16 p + 1#16)

/-- A DATA copy with a good-map. -/
def copyBytes (good : List Bool) (seq : Word16) : List Byte :=
  header 0x01#8 0#8 good.length 520#12 seq 0#8 ++ good.flatMap part

/-- A reception of all of a frame's bytes on a port, in cells from the front of the free list. -/
def receiving (s : State) (p : Port) (bytes : List Byte) : State :=
  { s.setPort p { s.port p with reception := some ⟨bytes, s.free.take (cellsFor bytes.length)⟩ } with
    free := s.free.drop (cellsFor bytes.length) }

/-- The reception that `receiving` sets. -/
def reception (s : State) (bytes : List Byte) : Reception := ⟨bytes, s.free.take (cellsFor bytes.length)⟩

/-- The part with one stream, in slot 6. -/
def withStream (st : Stream) : State := running.setSlot 6 (some st)

/-- A whole copy received on a port by the part with a stream. -/
def copyOn (p : Port) (st : Stream) (good : List Bool) (seq : Word16) : State :=
  after (.frameReceived p) (receiving (withStream st) p (copyBytes good seq))

/-- The frame in transmission on L. -/
def sent (s : State) : List Byte :=
  match (s.port .l).tx with
  | some x => x.frame.bytes
  | none => []

/-- The first bytes of the payload of the frame in transmission on L. -/
def reply (n : Nat) (s : State) : List Byte := (mgmtPayload (sent s)).take n

/-- The part with a lease held by manager 7. -/
def leased : State :=
  { running with agent := { Agent.reset with lease := some ⟨7#16, some 20#8⟩ } }

/-- The present clause of a state's slot 6. -/
def slot6 (s : State) : Option Stream := s.stream 6

/-- A frame in cells, for queues. -/
def queued (cells : List CellId) (o : Origin) : Queued := ⟨⟨List.replicate 26 0#8, cells⟩, o⟩

/-! ### Check values of the published generators (R41, R72, R166) -/

/-- The digits 1 to 9. -/
def digits : List Byte := [0x31#8, 0x32#8, 0x33#8, 0x34#8, 0x35#8, 0x36#8, 0x37#8, 0x38#8, 0x39#8]

theorem test_partition_check : crc16 digits = 0x29B1#16 := by decide +kernel
theorem test_header_check : crc8 digits = 0xF4#8 := by decide +kernel
theorem test_check_word : crc32 digits = 0x0376E6E7#32 := by decide +kernel

/-! ### Well-formedness: each check refuses an ill-formed command -/

theorem test_wf_error_time : Instr.wf (.lineCodeError .f0 25000) = false := by decide +kernel
theorem test_wf_frame_short : Instr.wf (.badFrame (List.replicate 25 0#8)) = false := by decide +kernel
theorem test_wf_frame_long : Instr.wf (.badFrame (List.replicate 1065 0#8)) = false := by decide +kernel
theorem test_wf_known_code : Instr.wf (.unknownRequest 0#16 0#16 15#8) = false := by decide +kernel
theorem test_wf_bank_range : Instr.wf (.saveEnd [(1109, 0#8)]) = false := by decide +kernel
theorem test_wf_bank_order : Instr.wf (.sealEnd [(4, 0#8), (4, 1#8)]) = false := by decide +kernel

/-! ### Power and reset -/

/-- R168: the load begins at a power-on. -/
theorem test_power_on : (after .powerOn running).phase = .loading := by decide +kernel

/-- R86, R168: silent without power. -/
theorem test_power_loss : (after .powerLoss running).txOutput .f0 = .silent := by decide +kernel

theorem test_rstn_asserted : (after .rstnAsserted running).phase = .held := by decide +kernel

/-- R180: 1 µs is long enough, 999 ns is not. -/
theorem test_pin_reset : (after (.pinReset 1000) running).phase = .loading := by decide +kernel
theorem test_pin_reset_filtered : (after (.pinReset 999) running).phase = .running := by decide +kernel

/-- R86, R168: alignment words begin at the end of the load. -/
theorem test_load_end : (after .startUpLoadEnd State.reset).txOutput .f1 = .alignmentWords false := by decide +kernel

/-- A load that has raised a fault, at a count. -/
def faultyLoad (count : Word32) : State :=
  { State.reset with count := count, faults := [freshRecord { kind := .imageCorrupt } 0#32] }

/-- R154: a load that ends before the first tick has read the banks at count 0. -/
theorem test_load_stamp : (after .startUpLoadEnd (faultyLoad 0#32)).faults.map (fun f => f.firstTime) = [0#32] := by
  decide +kernel

/-! ### Links and symbols -/

theorem test_signal_detected :
    ((after (.signalDetected .f0) { running with ports := ⟨PortState.reset, upPort, upPort⟩ }).port .f0).link =
      .aligning 0 false false := by decide +kernel

/-- R98: the link loss aborts the reception. -/
theorem test_signal_lost :
    ((after (.signalLost .f1) (receiving running .f1 [1#8])).portCounter .f1 .aborted,
      (after (.signalLost .f1) (receiving running .f1 [1#8])).free.length) = (1#32, 255) := by decide +kernel

/-- R88: the fourth word, with a mark, takes the link UP; without any mark it does not. -/
def aligning : State :=
  { running with ports := ⟨{ upPort with link := .aligning 3 false false }, upPort, upPort⟩ }

theorem test_alignment_word : (after (.alignmentWordReceived .f0 true) aligning).linkUp .f0 = true := by decide +kernel
theorem test_alignment_word_unmarked :
    (after (.alignmentWordReceived .f0 false) aligning).txOutput .f0 = .alignmentWords true := by decide +kernel

theorem test_alignment_timer :
    ((after (.alignmentTimerRunOut .f0) aligning).port .f0).link = .aligning 0 false false := by decide +kernel

/-- R89: the sixteenth error within 1 ms. An error 25001 periods old is forgotten. -/
def noisy (n now : Nat) : State :=
  { running with uptime := now, ports := ⟨{ upPort with link := .up (List.replicate n 0) }, upPort, upPort⟩ }

theorem test_sixteenth_error : (after (.lineCodeError .f0 0) (noisy 15 1)).linkUp .f0 = false := by decide +kernel
theorem test_old_errors : ((after (.lineCodeError .f0 1) (noisy 15 1)).port .f0).link = .up [25001] := by
  decide +kernel

/-- 7.6 steps 1 and 2: with 2 free cells L is granted, F0 refused. -/
theorem test_start_marker_line :
    (after (.startMarkerReceived .l) { running with free := [0, 1] }).free = [1] := by decide +kernel
theorem test_start_marker_field :
    (after (.startMarkerReceived .f0) { running with free := [0, 1] }).portCounter .f0 .poolEmpty = 1#32 := by
  decide +kernel

/-- R90: byte 65 takes a second cell. -/
theorem test_data_byte :
    (after (.dataByteReceived .f0 9#8) (receiving running .f0 (List.replicate 64 0#8))).free.length = 254 := by
  decide +kernel

theorem test_abort_marker :
    (after (.abortMarkerReceived .f0) (receiving running .f0 [1#8])).portCounter .f0 .malformed = 1#32 := by
  decide +kernel

/-! ### Copies -/

/-- 4.6: line stream id 77, SOLO while the F1 path is FRESH (flag bit 0 to 3 as Table 12-1 gives), via F0. -/
theorem test_frame_received : frameId (sent (copyOn .f0 stream [true, true] 7200#16)) = 77#12 := by decide +kernel

/-- 3.7 step 1: a damaged NEW copy is held, nothing is recorded. -/
theorem test_frame_held :
    (((copyOn .f0 stream [true, false] 7200#16).held 0).map (fun h => (h.port, h.good, h.wait)),
      ((slot6 (copyOn .f0 stream [true, false] 7200#16)).map (fun x => x.counter (.damaged .f0)))) =
      (some (FPort.f0, [true, false], 200#16), some 1#32) := by decide +kernel

/-- 2.7 and 2.8: rows of Table 2-1 by the manual's own numbers. -/
def wrapped : Option History := some ⟨3#16, [⟨3#16, none⟩, ⟨65530#16, none⟩, ⟨65525#16, none⟩, ⟨65520#16, none⟩]⟩

theorem test_class_late : classify wrapped 64 65510#16 = .new := by decide +kernel
theorem test_class_stale : classify wrapped 64 65507#16 = .stale := by decide +kernel
theorem test_class_duplicate : classify wrapped 64 65525#16 = .duplicate := by decide +kernel
theorem test_class_ahead : classify wrapped 64 40#16 = .new := by decide +kernel
theorem test_class_leap : classify (some ⟨540#16, [⟨540#16, none⟩]⟩) 64 620#16 = .leap := by decide +kernel

/-- 2.8 step 5: the window moves past every older member. -/
theorem test_record_far : recorded wrapped 40#16 none = some ⟨40#16, [⟨40#16, none⟩]⟩ := by decide +kernel

/-- 2.8 step 1: all three old members stay across the wrap. -/
theorem test_record_wrap :
    recorded (some ⟨65530#16, [⟨65530#16, none⟩, ⟨65525#16, none⟩, ⟨65520#16, none⟩]⟩) 3#16 none = wrapped := by
  decide +kernel

/-- A held F0 copy of 7200, map G B. -/
def holding (pol : DamagePolicy) : State :=
  { (withStream { stream with cfg := { cfg with policy := pol } }).setHeld 0
      (some { slot := 6, seq := 7200#16, port := .f0, count := 2, good := [true, false],
              frame := ⟨copyBytes [true, false] 7200#16, [255]⟩, wait := 200#16 }) with
    free := allCells.take 255 }

/-- 3.8 step 3: the expiry under WHOLE drops the copy, and marks its twin's port. -/
theorem test_wait_timer :
    ((after (.waitTimerRunOut 0) (holding .whole)).faults.map (fun f => (f.kind, f.part)),
      (slot6 (after (.waitTimerRunOut 0) (holding .whole))).bind (fun x => x.history)) =
      ([(FaultKind.damageDropped, some 1)],
        some ⟨7200#16, [⟨7200#16, some .f1⟩, ⟨7199#16, none⟩]⟩) := by decide +kernel

/-- 3.7 under TRIM: the frame keeps the partitions before the first bad one. -/
theorem test_wait_timer_trim : frameCount (sent (after (.waitTimerRunOut 0) (holding .trim))) = 1 := by decide +kernel

/-- 5.8 at 120: LOST with its time, reported by PATH_LOST (kind code 1) on L. -/
theorem test_path_timer :
    ((slot6 (after (.pathTimerRunOut 6 .f0) { withStream stream with count := 120#32 })).map (fun x => x.paths.f0),
      reply 1 (after (.pathTimerRunOut 6 .f0) { withStream stream with count := 120#32 })) =
      (some (.lost 120#32), [1#8]) := by decide +kernel

/-- 4.5 at 10 ms: the credits become the burst. -/
theorem test_interval_timer :
    (slot6 (after (.intervalTimerRunOut 6) (withStream
      { stream with cfg := { cfg with burst := 3#8 }, intervalTimer := some 10#8 }))).map (fun x => x.credits) =
      some 3#8 := by decide +kernel

/-! ### Egress -/

/-- 7.8: class 0 before class 2. -/
def twoClasses : State :=
  { running with classes := #v[[queued [0] .data], [], [queued [1] .data], []], free := allCells.drop 2 }

theorem test_transmission_start : (after (.transmissionStart .l) twoClasses).classes = #v[[], [], [queued [1] .data], []] := by
  decide +kernel

/-- 7.7 step 4: the last holder's cells return. -/
def sending (p : Port) (o : Origin) : State :=
  { running.setPort p { upPort with tx := some (queued [0, 1] o) } with free := allCells.drop 2 }

theorem test_transmission_end :
    ((after (.transmissionEnd .f0) (sending .f0 .command)).free.length,
      (after (.transmissionEnd .f0) (sending .f0 .command)).portCounter .f0 .framesSent) = (256, 1#32) := by
  decide +kernel

/-- R162: the first notice has serial 1 and kind SESSION_EXPIRED (code 6). -/
def noticed : State := { running with notices := [⟨.sessionExpired 7#16, 0#32⟩] }

theorem test_notice_offer :
    (frameSeq (sent (after .noticeOffer noticed)), reply 1 (after .noticeOffer noticed)) = (1#16, [6#8]) := by
  decide +kernel

/-- R119: the turn's end takes the waiting request. -/
def waiting : State :=
  { running with
    agent := { Agent.reset with busy := true, requests := [⟨running.requestFrame 7#16 9#16 .identify, [0]⟩] }
    free := allCells.drop 1 }

theorem test_agent_turn_end :
    (frameSeq (sent (after .agentTurnEnd waiting)), reply 4 (after .agentTurnEnd waiting)) =
      (9#16, [1#8, 0#8, 0x0C#8, 0x01#8]) := by decide +kernel

/-! ### Requests: code and status of the response (Table 12-2) -/

theorem test_bad_frame : reply 2 (after (.badFrame (List.replicate 26 0#8)) running) = [0#8, 8#8] := by decide +kernel
theorem test_unknown_request : reply 2 (after (.unknownRequest 7#16 1#16 16#8) running) = [16#8, 9#8] := by
  decide +kernel
theorem test_identify : reply 4 (after (.identify 7#16 1#16) running) = [1#8, 0#8, 0x0C#8, 0x01#8] := by decide +kernel
/-- R108: the response takes the cell its request's frame gives back. -/
theorem test_identify_last_cell :
    reply 2 (after (.identify 7#16 1#16) { running with free := [9] }) = [1#8, 0#8] := by decide +kernel
theorem test_open_session : (after (.openSession 7#16 1#16) running).agent.lease = some ⟨7#16, some 20#8⟩ := by
  decide +kernel
theorem test_open_held : reply 4 (after (.openSession 8#16 1#16) leased) = [2#8, 4#8, 0#8, 7#8] := by decide +kernel
theorem test_close_session : (after (.closeSession 7#16 1#16) leased).agent.lease = none := by decide +kernel
theorem test_read_entry : reply 2 (after (.readEntry 7#16 1#16 64#8) running) = [4#8, 7#8] := by decide +kernel
theorem test_read_stream_counters :
    reply 2 (after (.readStreamCounters 7#16 1#16 6#8 1#8) running) = [5#8, 3#8] := by decide +kernel
theorem test_read_port_counters :
    (after (.readPortCounters 7#16 1#16 1#8 1#8) (leased.bumpGlobal .lineData)).globalCounter .lineData = 0#32 := by
  decide +kernel
theorem test_read_faults : (after (.readFaults 7#16 1#16 6#8) (leased.raiseFault { kind := .malformed })).faults = [] := by
  decide +kernel

/-- RETIRE of slot 5 without a configuration. -/
def noRecord : EntryRecord :=
  { marks := 0#16, fieldId := 0#16, lineId := 0#16, size := 0#8, policy := 0#8, twinWait := 0#16, jumpLimit := 0#16,
    resyncRun := 0#8, pathTimeout := 0#8, cls := 0#8, burst := 0#8, interval := 0#8, initial := 0#8 }

theorem test_stage_entry :
    (after (.stageEntry 7#16 1#16 5#8 3#8 0#8 noRecord) leased).staging = [.entry 5 .retire none] := by decide +kernel

/-- R139: a station of 4096 is out of range, 4095 is not. -/
def stationRecord (x : Word16) : GlobalsRecord :=
  { marks := 1#8, station := x, limit0 := 0#16, limit1 := 0#16, limit2 := 0#16, limit3 := 0#16, lease := 0#8,
    enables := 0#8 }

theorem test_stage_globals : (after (.stageGlobals 7#16 1#16 (stationRecord 4095#16)) leased).staging.length = 1 := by
  decide +kernel
theorem test_stage_globals_range : reply 2 (after (.stageGlobals 7#16 1#16 (stationRecord 4096#16)) leased) =
    [9#8, 7#8] := by decide +kernel

/-- A staged RETIRE of slot 5, held by manager 7. -/
def staged : State := { leased with staging := [.entry 5 .retire none] }

theorem test_read_staging : reply 6 (after (.readStaging 7#16 1#16 0#8) staged) =
    [10#8, 0#8, 1#8, 1#8, 3#8, 5#8] := by decide +kernel
theorem test_discard_staging : (after (.discardStaging 7#16 1#16) staged).staging = [] := by decide +kernel
theorem test_commit : (after (.commit 7#16 1#16) staged).op = .commit [.entry 5 .retire none] 7#16 := by decide +kernel
theorem test_commit_empty : reply 2 (after (.commit 7#16 1#16) leased) = [12#8, 10#8] := by decide +kernel

/-- 11.6 steps 1 and 5; R133: a BLANK part has nothing to seal. -/
theorem test_save_image :
    ((after (.saveImage 7#16 1#16) leased).op.job?.map (fun j => (j.target, j.saveCount, j.phase))) =
      some (BankId.a, 1#32, BankPhase.erase) := by decide +kernel
theorem test_save_sealed :
    reply 2 (after (.saveImage 7#16 1#16) { leased with imageState := .sealed }) = [13#8, 11#8] := by decide +kernel
theorem test_seal_image : reply 2 (after (.sealImage 7#16 1#16) leased) = [14#8, 12#8] := by decide +kernel

theorem test_reset_traffic :
    (slot6 (after (.resetPartTraffic 7#16 1#16) (leased.setSlot 6 (some stream)))).map (fun x => x.history) =
      some none := by decide +kernel
theorem test_reset_full : (after (.resetPartFull 7#16 1#16) leased).agent.fullPending = true := by decide +kernel

/-! ### Ends of operations and timers -/

theorem test_full_reset :
    (after .fullReset { running with agent := { Agent.reset with fullPending := true } }).phase = .loading := by
  decide +kernel

/-- R142: RETIRE of a FREE slot fails its slot-state test; COMMIT_DONE (code 8), REJECTED, generation 1. -/
def committing (r : Staged) : State := { leased with staging := [r], op := .commit [r] 7#16 }

theorem test_commit_end_rejected :
    reply 11 (after .commitEnd (committing (.entry 5 .retire none))) =
      [8#8, 0#8, 0#8, 0#8, 0#8, 0#8, 0#8, 1#8, 0#8, 1#8, 1#8] := by decide +kernel

/-- R145: a LOCK applies; the generation becomes 2. -/
theorem test_commit_end_applied :
    ((after .commitEnd ((committing (.entry 6 .lock none)).setSlot 6 (some stream))).generation,
      (slot6 (after .commitEnd ((committing (.entry 6 .lock none)).setSlot 6 (some stream)))).map (fun x => x.locked)) =
      (2#16, some true) := by decide +kernel

theorem test_lease_timer : reply 9 (after .leaseTimerRunOut leased) =
    [6#8, 0#8, 0#8, 0#8, 0#8, 0#8, 0#8, 0#8, 7#8] := by decide +kernel

/-- A save to bank A in a phase, with few bytes. -/
def saving (ph : BankPhase) : State :=
  { leased with
    op := .save { target := .a, phase := ph, bytes := [1#8, 0xFF#8, 3#8], saveCount := 1#32, manager := 7#16 }
    banks := ⟨[(0, 7#8)], []⟩ }

theorem test_bank_erase_end : (after .bankEraseEnd (saving .erase)).banks.a = [] := by decide +kernel
theorem test_bank_write_end : (after .bankWriteEnd (saving .write)).banks.a = [(0, 1#8), (2, 3#8)] := by decide +kernel

/-- 11.8: a read back that differs: SAVE_FAILED with sequence 0. -/
theorem test_save_end :
    (after (.saveEnd []) (saving .readBack)).faults.map (fun f => (f.kind, f.seq)) =
      [(FaultKind.saveFailed, some 0#16)] := by decide +kernel

def sealing : State :=
  { leased with
    op := .seal { target := .b, phase := .readBack, bytes := [1#8], saveCount := 4#32, manager := 7#16 }
    banks := ⟨[(0, 7#8)], []⟩ }

/-- R174: a seal's read back that differs: SAVE_FAILED with sequence 1, and no operation left. -/
theorem test_seal_end :
    ((after (.sealEnd [(5, 0#8)]) sealing).faults.map (fun f => (f.kind, f.seq)), (after (.sealEnd [(5, 0#8)]) sealing).op) =
      ([(FaultKind.saveFailed, some 1#16)], Operation.idle) := by decide +kernel

/-- R154: the count wraps. -/
theorem test_millisecond_tick :
    (after .millisecondCountTick { running with count := 4294967295#32 }).count = 0#32 := by decide +kernel

/-! ### Witnesses: for each statement with hypotheses, states and operands that meet them -/

/-- `Receiving` from what can be evaluated. -/
theorem receives {s : State} {p : Port} {r : Reception}
    (h : s.phase = .running ∧ s.linkUp p = true ∧ (s.port p).reception = some r) : Receiving s p r :=
  ⟨h.1, h.2.1, h.2.2⟩

/-- `FrameEnds` from what can be evaluated. -/
theorem ends {s : State} {p : Port} {r : Reception} {k : Kind}
    (h : (s.phase = .running ∧ s.linkUp p = true ∧ (s.port p).reception = some r) ∧ 26 ≤ r.bytes.length ∧
      headerSound r.bytes = true ∧ frameKind r.bytes = some k) : FrameEnds s p r k :=
  ⟨receives h.1, h.2.1, h.2.2.1, h.2.2.2⟩

/-- `FoundSlot` for slot 6 of a table with no other stream. -/
theorem found {s : State} {st : Stream} {id : Id12}
    (h : s.stream 6 = some st ∧ st.cfg.fieldId = id ∧ ∀ j : Fin 64, j ≠ 6 → (s.stream j).isNone = true) :
    FoundSlot s id 6 st :=
  ⟨h.1, h.2.1, fun j st' hj _ => Decidable.byContradiction fun hne => by
    have := h.2.2 j hne
    rw [hj] at this
    exact absurd this (by simp)⟩

/-- `CopyEnds` for slot 6 from what can be evaluated. -/
theorem copyIs {s : State} {p : FPort} {st : Stream} {r : Reception}
    (h : ((s.phase = .running ∧ s.linkUp (portOf p) = true ∧ (s.port (portOf p)).reception = some r) ∧
        26 ≤ r.bytes.length ∧ headerSound r.bytes = true ∧ frameKind r.bytes = some .data) ∧
      (s.stream 6 = some st ∧ st.cfg.fieldId = frameId r.bytes ∧
        ∀ j : Fin 64, j ≠ 6 → (s.stream j).isNone = true) ∧
      st.suspended = false ∧ formatOk r.bytes st.cfg.size = true) : CopyEnds s p 6 st r :=
  ⟨ends h.1, found h.2.1, h.2.2.1, h.2.2.2⟩

/-- `NotPending` when no repair slot holds anything. -/
theorem notPending {s : State} {k : Fin 64} {seq : Word16} (h : ∀ q, (s.held q).isNone = true) : NotPending s k seq :=
  fun q g hq => by
    have := h q
    rw [hq] at this
    exact absurd this (by simp)

/-- `NotPending` when every copy held is of another pair. -/
theorem otherPending {s : State} {k : Fin 64} {seq : Word16}
    (h : ∀ q, (s.held q).all (fun g => !(g.slot == k && g.seq == seq)) = true) : NotPending s k seq :=
  fun q g hq hg => by
    have := h q
    rw [hq] at this
    simp [hg.1, hg.2] at this

/-- `TakesAtOnce` from what can be evaluated. -/
theorem takes {s : State} {m t : Word16}
    (h : s.phase = .running ∧ s.agent.busy = false ∧ s.agent.fullPending = false ∧ s.agent.requests = [] ∧
      s.cachedFor m t = none ∧ cellCount s.lane + 3 ≤ 16 ∧ 3 ≤ s.free.length) : TakesAtOnce s m t :=
  ⟨h.1, h.2.1, h.2.2.1, h.2.2.2.1, h.2.2.2.2.1, h.2.2.2.2.2.1, h.2.2.2.2.2.2⟩

/-- `AgentIdle` from what can be evaluated. -/
theorem idles {s : State} (h : s.phase = .running ∧ s.agent.busy = false ∧ s.agent.fullPending = false ∧
    s.agent.requests = []) : AgentIdle s :=
  ⟨h.1, h.2.1, h.2.2.1, h.2.2.2⟩

/-- The part with a stream and a whole copy of it in reception on a field port. -/
def copyIn (p : FPort) (st : Stream) (good : List Bool) (seq : Word16) : State :=
  receiving (withStream st) (portOf p) (copyBytes good seq)

/-- The reception of that copy. -/
def recOf (good : List Bool) (seq : Word16) : Reception := ⟨copyBytes good seq, [0]⟩

/-- A management frame in reception on a port of the part. -/
def mgmtIn (s : State) (p : Port) (k : Kind) (station : Id12) : State :=
  receiving s p (mgmtFrame k station 0#16 [])

/-- The reception of that frame. -/
def mgmtRec (k : Kind) (station : Id12) : Reception := ⟨mgmtFrame k station 0#16 [], [0]⟩

/-- The part with every link DOWN and no signal. -/
def dark : State := { running with ports := ⟨PortState.reset, PortState.reset, PortState.reset⟩ }

/-- A part with L DOWN. -/
def lineDark : State := { running with ports := ⟨upPort, upPort, PortState.reset⟩ }

/-- The lease of manager 7 with room for everything, and its takes. -/
theorem leased_takes : TakesAtOnce leased 7#16 1#16 ∧ leased.holds 7#16 = true ∧ leased.op = .idle :=
  ⟨takes (by decide +kernel), by decide +kernel⟩

theorem witness_StepTakesFrontCommand :
    { running with pending := [.fullReset] }.pending = .fullReset :: [] ∧ running.pending = [] := by decide +kernel

theorem witness_EveryCommandAnswers :
    (Instr.wf (.lineCodeError .f0 24999) = true ∧ Instr.wf (.badFrame (List.replicate 26 0#8)) = true ∧
      Instr.wf (.badFrame (List.replicate 1064 0#8)) = true ∧ Instr.wf (.unknownRequest 0#16 0#16 16#8) = true ∧
      Instr.wf (.saveEnd [(0, 0#8), (1108, 0#8)]) = true ∧
      (1109, 0#8) ∈ [((1109, 0#8) : Nat × Byte)] ∧ 1109 ≤ (1109, 0#8).1) ∧
    ∃ t, exec .millisecondCountTick running = .next t :=
  ⟨by decide +kernel, _, rfl⟩

theorem witness_SettleTouchesEgressOnly : State.reset.phase ≠ .running ∧ lineDark.linkUp .l = false := by
  decide +kernel

theorem witness_ResetIsTaken :
    (running.rstnLow = false ∧ running.phase ≠ .off ∧ 1000 ≤ 1000 ∧
      (let s : State := { running with agent := { Agent.reset with fullPending := true } }
       s.phase = .running ∧ s.agent.fullPending = true ∧ s.lane.any isResetResponse = false)) ∧
    ∀ ph : BankPhase, (saving ph).rstnLow = false ∧ (saving ph).phase ≠ .off :=
  ⟨by decide +kernel, fun ph => ⟨rfl, by cases ph <;> decide +kernel⟩⟩

theorem witness_PowerLossAndHold :
    (running.phase ≠ .off ∧ running.rstnLow = false ∧ 999 < 1000 ∧
      ({ running with rstnLow := true } : State).rstnLow = true ∧ ({ running with phase := .off } : State).phase = .off) ∧
    ∀ ph : BankPhase, (saving ph).phase ≠ .off ∧ ∃ j, (saving ph).op.job? = some j ∧ j.phase = ph :=
  ⟨by decide +kernel, fun ph => ⟨by cases ph <;> decide +kernel, _, rfl, rfl⟩⟩

theorem witness_LoadEndBegins :
    State.reset.phase = .loading ∧ (State.reset.port .f0).link = .down ∧ (State.reset.port .f1).link = .down ∧
      (State.reset.port .l).link = .down ∧ (faultyLoad 3#32).phase = .loading ∧
      (∀ p ∈ [Port.f0, .f1, .l], ((faultyLoad 3#32).port p).link = .down) ∧
      (faultyLoad 3#32).faults.map (fun f => f.kind) = [.imageCorrupt] := by decide +kernel

theorem witness_Alignment :
    dark.phase = .running ∧ (dark.port .f0).link = .down ∧ aligning.phase = .running ∧
      (aligning.port .f0).link = .aligning 3 false false ∧
      ((false || decide (3 ≤ 3)) && (false || false)) = false ∧ ((false || decide (3 ≤ 2)) && (false || true)) = false ∧
      ((false || decide (3 ≤ 3)) && (false || true)) = true ∧ Port.f0 = portOf .f0 ∧
      (let s := running.setPort .l { upPort with link := .aligning 2 true false }
       s.phase = .running ∧ (s.port .l).link = .aligning 2 true false ∧
         ((true || decide (3 ≤ 2)) && (false || true)) = true) := by decide +kernel

theorem witness_SymbolsBetweenFrames :
    running.phase = .running ∧ running.linkUp .f0 = true ∧ (running.port .f0).reception = none ∧
      (aligning.port .f0).link = .aligning 3 false false ∧ (dark.port .f0).link = .down := by decide +kernel

theorem witness_LineCodeErrorKept :
    (aligning.port .f0).link = .aligning 3 false false ∧
      (noisy 14 1).phase = .running ∧ ((noisy 14 1).port .f0).link = .up (List.replicate 14 0) ∧
      ((noisy 14 1).port .f0).reception = none ∧
      ((List.replicate 14 0).filter (fun t => decide (1 * 25000 + 0 ≤ t + 25000)) ++ [25000]).length < 16 ∧
      ((noisy 15 1).port .f0).link = .up (List.replicate 15 0) ∧
      16 ≤ ((List.replicate 15 0).filter (fun t => decide (1 * 25000 + 0 ≤ t + 25000)) ++ [25000]).length ∧
      Port.f0 ≠ .l ∧
      (let s := receiving (noisy 15 1) .f0 [1#8]
       (s.port .f0).link = .up (List.replicate 15 0) ∧ (s.port .f0).reception.isSome = true) ∧
      (let s := (noisy 0 1).setPort .l { upPort with link := .up (List.replicate 15 0) }
       (s.port .l).link = .up (List.replicate 15 0) ∧ (s.agent.fullPending && s.resetResponseOnL) = false) := by
  decide +kernel

theorem witness_FieldLinkLoss :
    (holding .mark).phase = .running ∧ ((holding .mark).port (portOf .f1)).link = .up [] ∧
      (holding .mark).stream 6 = some { stream with cfg := { cfg with policy := .mark } } ∧
      ((holding .mark).held 0).isSome = true ∧
      (let s := sending .f1 .command
       (s.port (portOf .f1)).link = .up [] ∧
         ∀ x ∈ (s.port (portOf .f1)).tx.toList ++ s.command.get .f1, s.portHolds (otherPort .f1) x.frame = false) ∧
      (let s : State := { sending .f1 .command with command := ⟨[queued [0, 1] .command], []⟩ }
       ∀ x ∈ (s.port (portOf .f1)).tx.toList ++ s.command.get .f1, s.portHolds (otherPort .f1) x.frame = true) ∧
      (let shared := queued [2] .command
       let s : State := { sending .f1 .command with command := ⟨[shared], [shared, queued [3] .command]⟩ }
       ((s.port (portOf .f1)).tx.toList ++ s.command.get .f1).map (fun x => s.portHolds (otherPort .f1) x.frame) =
         [false, true, false]) := by
  decide +kernel

theorem witness_LineLinkLoss :
    running.phase = .running ∧ (running.port .l).link = .up [] ∧ running.op.job? = none ∧
      (running.agent.fullPending && running.resetResponseOnL) = false ∧
      (let s : State := { sending .l (.response true) with agent := { Agent.reset with fullPending := true } }
       s.phase = .running ∧ (s.port .l).link = .up [] ∧ s.op.job? = none ∧
         (s.agent.fullPending && s.resetResponseOnL) = true) := by decide +kernel

/-- The part with a number of free cells and some bytes in reception on a port. -/
def midFrame (p : Port) (n cells : Nat) : State :=
  { running.setPort p { upPort with reception := some ⟨List.replicate n 0#8, [255]⟩ } with free := allCells.take cells }

/-- Its reception. -/
def midRec (n : Nat) : Reception := ⟨List.replicate n 0#8, [255]⟩

theorem witness_BytesTakeCells :
    (∀ s ∈ [{ running with free := allCells.take 5 }, { running with free := allCells.take 4 }],
      s.phase = .running ∧ s.linkUp .f0 = true ∧ (s.port .f0).reception = none) ∧
    ({ running with free := [] } : State).linkUp .l = true ∧ allCells.take 1 = 0 :: [] ∧
    allCells.take 5 = 0 :: [1, 2, 3, 4] ∧ 5 ≤ (allCells.take 5).length ∧ (allCells.take 4).length ≤ 4 := by
  decide +kernel

theorem witness_BytesTakeCells_byte :
    Receiving (midFrame .f0 0 5) .f0 (midRec 0) ∧ Receiving (midFrame .f0 1063 5) .f0 (midRec 1063) ∧
      Receiving (midFrame .f0 64 5) .f0 (midRec 64) ∧ Receiving (midFrame .f0 1024 4) .f0 (midRec 1024) ∧
      Receiving (midFrame .l 64 1) .l (midRec 64) ∧ Receiving (midFrame .l 64 0) .l (midRec 64) ∧
      (midRec 0).bytes.length = 0 ∧ (midRec 1063).bytes.length < 1064 ∧ (midRec 1063).bytes.length % 64 ≠ 0 ∧
      (midRec 64).bytes.length % 64 = 0 ∧ (midRec 1024).bytes.length % 64 = 0 ∧ (midFrame .l 64 0).free = [] :=
  ⟨receives (by decide +kernel), receives (by decide +kernel), receives (by decide +kernel),
    receives (by decide +kernel), receives (by decide +kernel), receives (by decide +kernel), by decide +kernel⟩

theorem witness_MalformedReception :
    Receiving (midFrame .f0 1 5) .f0 (midRec 1) ∧ Receiving (midFrame .f0 1064 5) .f0 (midRec 1064) ∧
      Receiving (midFrame .l 25 5) .l (midRec 25) ∧ (midRec 1064).bytes.length = 1064 ∧ (midRec 25).bytes.length < 26 ∧
      (((midFrame .f0 1 5).port .f0).link = .up [] ∧ ([] ++ [(0 : Nat)]).length < 16) ∧
      (Receiving (midFrame .f0 1 4) .f0 (midRec 1) ∧
        (midFrame .f0 1 4).free ++ (midRec 1).cells = 0 :: [1, 2, 3, 255] ∧
        5 ≤ ((midFrame .f0 1 4).free ++ (midRec 1).cells).length) ∧
      (Receiving (midFrame .f0 1 3) .f0 (midRec 1) ∧ ((midFrame .f0 1 3).free ++ (midRec 1).cells).length ≤ 4) ∧
      (Receiving (midFrame .l 1 0) .l (midRec 1) ∧ (midFrame .l 1 0).free ++ (midRec 1).cells = 255 :: []) ∧
      (let s : State := { running.setPort .l { upPort with reception := some ⟨[], []⟩ } with free := [] }
       Receiving s .l ⟨[], []⟩ ∧ s.free ++ [] = []) :=
  ⟨receives (by decide +kernel), receives (by decide +kernel), receives (by decide +kernel), by decide +kernel,
    by decide +kernel, by decide +kernel, ⟨receives (by decide +kernel), by decide +kernel⟩,
    ⟨receives (by decide +kernel), by decide +kernel⟩, ⟨receives (by decide +kernel), by decide +kernel⟩,
    receives (by decide +kernel), by decide +kernel⟩

theorem witness_FramesDispatched :
    Receiving (midFrame .f0 26 5) .f0 (midRec 26) ∧ 26 ≤ (midRec 26).bytes.length ∧
      frameKind (midRec 26).bytes = none ∧
      Receiving (receiving running .l (List.replicate 26 1#8)) .l ⟨List.replicate 26 1#8, [0]⟩ ∧
      headerSound (List.replicate 26 1#8) = false ∧
      FrameEnds (mgmtIn running .f1 .command 0#12) (portOf .f1) (mgmtRec .command 0#12) .command ∧
      FrameEnds (mgmtIn running .f1 .mgmtReq 0#12) (portOf .f1) (mgmtRec .mgmtReq 0#12) .mgmtReq ∧
      FrameEnds (mgmtIn running .l .data 0#12) .l (mgmtRec .data 0#12) .data ∧
      FrameEnds (mgmtIn running .l .mgmtRsp 0#12) .l (mgmtRec .mgmtRsp 0#12) .mgmtRsp ∧
      FrameEnds (mgmtIn running .l .mgmtNotice 0#12) .l (mgmtRec .mgmtNotice 0#12) .mgmtNotice :=
  ⟨receives (by decide +kernel), by decide +kernel, by decide +kernel, receives (by decide +kernel),
    by decide +kernel, ends (by decide +kernel), ends (by decide +kernel), ends (by decide +kernel),
    ends (by decide +kernel), ends (by decide +kernel)⟩

/-- The part with `n` cells in the lane. -/
def laneOf (n : Nat) : State :=
  { running with lane := [queued ((List.range n).map (Fin.ofNat 256)) .passThrough] }

/-- The part with `n` and `m` cells in the command queues, the field links DOWN. -/
def commandsOf (n m : Nat) : State :=
  { running with
    ports := ⟨PortState.reset, PortState.reset, upPort⟩
    command := ⟨[queued ((List.range n).map (Fin.ofNat 256)) .command],
      [queued ((List.range m).map (Fin.ofNat 256)) .command]⟩ }

theorem witness_FramesDispatched_lane :
    FrameEnds (mgmtIn (laneOf 15) .f0 .mgmtRsp 5#12) (portOf .f0) (mgmtRec .mgmtRsp 5#12) .mgmtRsp ∧
      cellCount (laneOf 15).lane + 1 ≤ 16 ∧
      FrameEnds (mgmtIn (laneOf 16) .f1 .mgmtNotice 5#12) (portOf .f1) (mgmtRec .mgmtNotice 5#12) .mgmtNotice ∧
      16 < cellCount (laneOf 16).lane + 1 :=
  ⟨ends (by decide +kernel), by decide +kernel, ends (by decide +kernel), by decide +kernel⟩

theorem witness_FramesDispatched_command :
    FrameEnds (mgmtIn (commandsOf 31 31) .l .command 5#12) .l (mgmtRec .command 5#12) .command ∧
      FrameEnds (mgmtIn (commandsOf 31 32) .l .mgmtReq 5#12) .l (mgmtRec .mgmtReq 5#12) .mgmtReq ∧
      frameId (mgmtRec .mgmtReq 5#12).bytes ≠ (commandsOf 31 32).globals.station ∧
      FrameEnds (mgmtIn (commandsOf 32 31) .l .command 5#12) .l (mgmtRec .command 5#12) .command ∧
      FrameEnds (mgmtIn (commandsOf 32 32) .l .command 5#12) .l (mgmtRec .command 5#12) .command ∧
      cellCount (commandsOf 31 32).command.f0 + 1 ≤ 32 ∧ ¬cellCount (commandsOf 31 32).command.f1 + 1 ≤ 32 :=
  ⟨ends (by decide +kernel), ends (by decide +kernel), by decide +kernel, ends (by decide +kernel),
    ends (by decide +kernel), by decide +kernel⟩

/-- The part with `n` waiting requests, busy or not. -/
def requestsOf (n : Nat) (busy : Bool) : State :=
  { running with agent := { Agent.reset with busy := busy, requests := List.replicate n ⟨[], []⟩ } }

theorem witness_AgentTakesRequests :
    FrameEnds (mgmtIn (requestsOf 3 true) .l .mgmtReq 0#12) .l (mgmtRec .mgmtReq 0#12) .mgmtReq ∧
      FrameEnds (mgmtIn (requestsOf 4 true) .l .mgmtReq 0#12) .l (mgmtRec .mgmtReq 0#12) .mgmtReq ∧
      FrameEnds (mgmtIn running .l .mgmtReq 0#12) .l (mgmtRec .mgmtReq 0#12) .mgmtReq ∧
      frameId (mgmtRec .mgmtReq 0#12).bytes = running.globals.station ∧
      (requestsOf 3 true).agent.requests.length < 4 ∧ 4 ≤ (requestsOf 4 true).agent.requests.length ∧
      (requestsOf 0 true).agent.requests = [] ∧
      waiting.agent.busy = true ∧ waiting.agent.requests = ⟨running.requestFrame 7#16 9#16 .identify, [0]⟩ :: [] ∧
      waiting.agent.fullPending = false :=
  ⟨ends (by decide +kernel), ends (by decide +kernel), ends (by decide +kernel), by decide +kernel⟩

theorem witness_AgentTakesRequests_row :
    Asks 7#16 1#16 (.identify 7#16 1#16) .identify ∧
      Asks 7#16 1#16 (.unknownRequest 7#16 1#16 16#8) (.unknown 16#8) ∧
      ({ running with free := [] } : State).phase = .running ∧ ({ running with free := [] } : State).free = [] ∧
      (requestsOf 3 true).free = 0 :: allCells.drop 1 ∧ (requestsOf 3 true).agent.busy = true ∧
      (requestsOf 4 true).free = 0 :: allCells.drop 1 ∧
      (let s : State := { running with agent := { Agent.reset with fullPending := true } }
       s.free = 0 :: allCells.drop 1 ∧ s.agent.fullPending = true ∧ s.agent.requests.length < 4) ∧
      (let s : State := { waiting with agent := { waiting.agent with fullPending := true } }
       s.phase = .running ∧ s.agent.busy = true ∧ s.agent.fullPending = true) :=
  ⟨.identify, .unknownRequest 16#8 (.inl (by decide)), by decide +kernel⟩

theorem witness_UnknownStreamDropped :
    FrameEnds (receiving running .f0 (copyBytes [true] 1#16)) (portOf .f0) (recOf [true] 1#16) .data ∧
      ∀ k, (running.stream k).isNone = true :=
  ⟨ends (by decide +kernel), by decide +kernel⟩

theorem witness_SuspendedCopyDropped :
    let st := { stream with suspended := true }
    FrameEnds (copyIn .f1 st [true] 1#16) (portOf .f1) (recOf [true] 1#16) .data ∧
      FoundSlot (copyIn .f1 st [true] 1#16) (frameId (recOf [true] 1#16).bytes) 6 st ∧ st.suspended = true :=
  ⟨ends (by decide +kernel), found (by decide +kernel), rfl⟩

theorem witness_CopyChecks :
    CopyEnds (copyIn .f0 stream [true, true] 1#16) .f0 6 stream (recOf [true, true] 1#16) ∧
      CopyEnds (copyIn .f1 stream [false, true] 1#16) .f1 6 stream (recOf [false, true] 1#16) ∧
      (let good := fun r : Reception => (List.range (frameCount r.bytes)).map (fun i =>
         crc16 (partPayload r.bytes 16 i) == word16At (partWithCheck r.bytes 16 i) 16)
       good (recOf [true, true] 1#16) = [true, true] ∧ good (recOf [false, true] 1#16) = [false, true]) ∧
      (stream.path .f0).isLost = false ∧
      (let st := { stream with paths := ⟨.lost 5#32, .fresh⟩ }
       CopyEnds (copyIn .f0 st [true] 1#16) .f0 6 st (recOf [true] 1#16) ∧ st.path .f0 = .lost 5#32) ∧
      (let st := { stream with cfg := { cfg with size := .p32 } }
       FrameEnds (copyIn .f0 st [true] 1#16) (portOf .f0) (recOf [true] 1#16) .data ∧
         FoundSlot (copyIn .f0 st [true] 1#16) (frameId (recOf [true] 1#16).bytes) 6 st ∧
         sizeOfCode (byteAt (recOf [true] 1#16).bytes 0) ≠ some st.cfg.size) ∧
      (let r : Reception := ⟨copyBytes [true, true] 1#16 ++ [0#8], [0]⟩
       FrameEnds (receiving (withStream stream) .f0 r.bytes) (portOf .f0) r .data ∧
         FoundSlot (receiving (withStream stream) .f0 r.bytes) (frameId r.bytes) 6 stream ∧
         r.bytes.length ≠ 8 + frameCount r.bytes * (sizeBytes stream.cfg.size + 2)) :=
  ⟨copyIs (by decide +kernel), copyIs (by decide +kernel), by decide +kernel, rfl,
    ⟨copyIs (by decide +kernel), rfl⟩, ⟨ends (by decide +kernel), found (by decide +kernel), by decide +kernel⟩,
    ends (by decide +kernel), found (by decide +kernel), by decide +kernel⟩

/-- The part with 7200 held for F0 and a copy of it in reception. -/
def pairIn (p : FPort) (good : List Bool) : State := receiving (holding .trim) (portOf p) (copyBytes good 7200#16)

/-- What the slot holds. -/
def heldF0 : Held :=
  { slot := 6, seq := 7200#16, port := .f0, count := 2, good := [true, false],
    frame := ⟨copyBytes [true, false] 7200#16, [255]⟩, wait := 200#16 }

/-- It is the only slot that holds anything. -/
theorem only_held {s : State} (h : ∀ q : Fin 8, q ≠ 0 → (s.held q).isNone = true) (q : Fin 8) (g : Held)
    (hq : s.held q = some g) : q = 0 :=
  Decidable.byContradiction fun hne => by
    have := h q hne
    rw [hq] at this
    exact absurd this (by simp)

theorem witness_HeldPortRepeat :
    CopyEnds (pairIn .f0 [true, true]) .f0 6 stream (recOf [true, true] 7200#16) ∧
      (pairIn .f0 [true, true]).held 0 = some heldF0 ∧ heldF0.seq = frameSeq (recOf [true, true] 7200#16).bytes ∧
      ∀ q g, (pairIn .f0 [true, true]).held q = some g → q = 0 :=
  ⟨copyIs (by decide +kernel), by decide +kernel, by decide +kernel, only_held (by decide +kernel)⟩

theorem witness_TwinMeetsHeld :
    (CopyEnds (pairIn .f1 [true, true]) .f1 6 stream (recOf [true, true] 7200#16) ∧
      (pairIn .f1 [true, true]).held 0 = some heldF0 ∧ heldF0.port = otherPort .f1 ∧
      ∀ q g, (pairIn .f1 [true, true]).held q = some g → q = 0) ∧
    CopyEnds (pairIn .f1 [false, true]) .f1 6 stream (recOf [false, true] 7200#16) ∧
      CopyEnds (pairIn .f1 [true]) .f1 6 stream (recOf [true] 7200#16) ∧
      (copyOf .f1 6 stream (recOf [true, true] 7200#16)).good = [true, true] ∧
      (copyOf .f1 6 stream (recOf [false, true] 7200#16)).good = [false, true] ∧
      (copyOf .f1 6 stream (recOf [true] 7200#16)).good = [true] ∧ heldF0.count = 2 ∧
      heldF0.frame.bytes.length = 8 + heldF0.good.length * (16 + 2) ∧
      (copyBytes [false, true] 7200#16).length = heldF0.frame.bytes.length :=
  ⟨⟨copyIs (by decide +kernel), by decide +kernel, rfl, only_held (by decide +kernel)⟩, copyIs (by decide +kernel),
    copyIs (by decide +kernel), by decide +kernel⟩

/-- A history at top 100 with 69 in its set. -/
def h100 : History := ⟨100#16, [⟨100#16, none⟩, ⟨69#16, none⟩]⟩

theorem witness_HistoryTables :
    h100.Sound ∧ 64 ≤ 1024 ∧ distance h100.top 100#16 = 0 ∧ distance h100.top 101#16 = 1 ∧
      distance h100.top 164#16 = 64 ∧ distance h100.top 165#16 = 64 + 1 ∧ distance h100.top 32867#16 = 32767 ∧
      distance h100.top 32868#16 = 32768 ∧ 65536 - distance h100.top 69#16 = 31 ∧ h100.accepts 69#16 = true ∧
      h100.accepts 70#16 = false ∧ 65536 - distance h100.top 68#16 = 32 ∧
      ({ stream with history := some h100 } : Stream).history = some h100 ∧
      ({ stream with history := none } : Stream).history = none ∧ 65536 - distance h100.top 70#16 ≤ 31 :=
  ⟨⟨by decide +kernel, by decide +kernel, by decide +kernel⟩, by decide +kernel⟩

theorem witness_CopyDroppedByClass :
    let late := { stream with history := some ⟨7199#16, [⟨7199#16, some .f1⟩]⟩ }
    (CopyEnds (copyIn .f1 late [true] 7199#16) .f1 6 late (recOf [true] 7199#16) ∧
      NotPending (copyIn .f1 late [true] 7199#16) 6 7199#16 ∧ lateTwin late.history 7199#16 .f1 = true ∧
      classify late.history 64 7199#16 = .duplicate) ∧
    (CopyEnds (copyIn .f0 late [true] 7199#16) .f0 6 late (recOf [true] 7199#16) ∧
      lateTwin late.history 7199#16 .f0 = false) ∧
    (CopyEnds (copyIn .f0 stream [true] 7167#16) .f0 6 stream (recOf [true] 7167#16) ∧
      classify stream.history 64 7167#16 = .stale) ∧
    CopyEnds (copyIn .f0 stream [false] 7264#16) .f0 6 stream (recOf [false] 7264#16) ∧
      classify stream.history 64 7264#16 = .leap ∧ (copyOf .f0 6 stream (recOf [false] 7264#16)).allGood = false :=
  ⟨⟨copyIs (by decide +kernel), notPending (by decide +kernel), by decide +kernel, by decide +kernel⟩,
    ⟨copyIs (by decide +kernel), by decide +kernel⟩, ⟨copyIs (by decide +kernel), by decide +kernel⟩,
    copyIs (by decide +kernel), by decide +kernel, by decide +kernel⟩

/-- Every repair slot of a state filled with copies of another sequence. -/
def repairFilled (s : State) : State := allRepair.foldl (fun x q => x.setHeld q (some { heldF0 with seq := 1#16 })) s

theorem witness_DamagedCopyHeld :
    let s := copyIn .f0 stream [true, false] 7200#16
    let r := recOf [true, false] 7200#16
    (CopyEnds s .f0 6 stream r ∧ NotPending s 6 7200#16 ∧ LowestFree s 0 ∧ classify stream.history 64 7200#16 = .new ∧
      (copyOf .f0 6 stream r).allGood = false ∧ stream.cfg.twinWait ≠ 0#16 ∧
      s.linkUp (portOf (otherPort .f0)) = true ∧ (stream.path (otherPort .f0)).isLost = false) ∧
    (CopyEnds (repairFilled s) .f0 6 stream r ∧ NotPending (repairFilled s) 6 7200#16 ∧
      (repairFilled s).linkUp (portOf (otherPort .f0)) = true ∧ ∀ q, (repairFilled s).held q ≠ none) ∧
    (let st := { stream with cfg := { cfg with twinWait := 0#16 } }
     CopyEnds (copyIn .f0 st [true, false] 7200#16) .f0 6 st r ∧ st.cfg.twinWait = 0#16) ∧
    (CopyEnds (s.setPort .f1 PortState.reset) .f0 6 stream r ∧
      (s.setPort .f1 PortState.reset).linkUp (portOf (otherPort .f0)) = false) ∧
    (let st := { stream with paths := ⟨.fresh, .lost 5#32⟩ }
     CopyEnds (copyIn .f0 st [true, false] 7200#16) .f0 6 st r ∧ (st.path (otherPort .f0)).isLost = true) :=
  ⟨⟨copyIs (by decide +kernel), notPending (by decide +kernel), ⟨by decide +kernel, by decide +kernel⟩,
      by decide +kernel⟩,
    ⟨copyIs (by decide +kernel), otherPending (by decide +kernel), by decide +kernel, by decide +kernel⟩,
    ⟨copyIs (by decide +kernel), rfl⟩, ⟨copyIs (by decide +kernel), by decide +kernel⟩,
    copyIs (by decide +kernel), rfl⟩

theorem witness_NewCopyForwarded :
    CopyEnds (copyIn .f0 stream [true] 7200#16) .f0 6 stream (recOf [true] 7200#16) ∧
      NotPending (copyIn .f0 stream [true] 7200#16) 6 7200#16 ∧ classify stream.history 64 7200#16 = .new ∧
      (copyOf .f0 6 stream (recOf [true] 7200#16)).allGood = true ∧
      (copyIn .f0 stream [true] 7200#16).linkUp .l = true ∧ stream.cfg.burst = 0#8 ∧
      cellCount ((copyIn .f0 stream [true] 7200#16).queue (.cls 2)) + 1 ≤
        (copyIn .f0 stream [true] 7200#16).globals.limits[(2 : Fin 4)].toNat :=
  ⟨copyIs (by decide +kernel), notPending (by decide +kernel), by decide +kernel⟩

/-- A policed stream with some credits. -/
def policed (n : Byte) : Stream := { stream with cfg := { cfg with burst := 3#8 }, credits := n }

/-- The class queue of a stream filled to its limit of 48 cells, with an all-good copy in reception. -/
def fullClass (st : Stream) : State :=
  { copyIn .f0 st [true] 7200#16 with
    classes := #v[[], [], [queued ((List.range 48).map (Fin.ofNat 256)) .data], []] }

theorem witness_NewCopyNotForwarded :
    CopyEnds (receiving (lineDark.setSlot 6 (some stream)) .f0 (copyBytes [true] 7200#16)) .f0 6 stream
        (recOf [true] 7200#16) ∧
      lineDark.linkUp .l = false ∧
      CopyEnds (copyIn .f0 (policed 0#8) [true] 7200#16) .f0 6 (policed 0#8) (recOf [true] 7200#16) ∧
      (policed 0#8).cfg.burst ≠ 0#8 ∧ (policed 0#8).credits = 0#8 ∧
      (CopyEnds (fullClass (policed 1#8)) .f0 6 (policed 1#8) (recOf [true] 7200#16) ∧
        NotPending (fullClass (policed 1#8)) 6 7200#16 ∧ (policed 1#8).credits ≠ 0#8 ∧
        (fullClass (policed 1#8)).globals.limits[(2 : Fin 4)].toNat <
          cellCount ((fullClass (policed 1#8)).queue (.cls 2)) + 1) ∧
      CopyEnds (fullClass stream) .f0 6 stream (recOf [true] 7200#16) ∧ stream.cfg.burst = 0#8 ∧
        (fullClass stream).globals.limits[(2 : Fin 4)].toNat < cellCount ((fullClass stream).queue (.cls 2)) + 1 :=
  ⟨copyIs (by decide +kernel), by decide +kernel, copyIs (by decide +kernel), by decide +kernel, by decide +kernel,
    ⟨copyIs (by decide +kernel), notPending (by decide +kernel), by decide +kernel⟩, copyIs (by decide +kernel),
    by decide +kernel⟩

theorem witness_RewrittenHeader : 8 ≤ (copyBytes [true] 0#16).length ∧ 1 ≤ 1 ∧ 1 ≤ 16 ∧ 16 ≤ 16 := by decide +kernel

/-- 2.9's candidates: run 1 and run 2 on F0. -/
def leaping (x : Option Candidate) : Stream := { stream with candidate := x }

theorem witness_LeapCopies :
    let c2 : Candidate := ⟨.f0, 9000#16, 2⟩
    let c1 : Candidate := ⟨.f0, 9000#16, 1⟩
    classify stream.history 64 9000#16 = .leap ∧ (copyOf .f0 6 stream (recOf [true] 9000#16)).allGood = true ∧
      stream.history = some ⟨7199#16, [⟨7199#16, none⟩]⟩ ∧
      (CopyEnds (copyIn .f0 (leaping (some c2)) [true] 9000#16) .f0 6 (leaping (some c2)) (recOf [true] 9000#16) ∧
        NotPending (copyIn .f0 (leaping (some c2)) [true] 9000#16) 6 9000#16 ∧ stream.cfg.resyncRun.toNat ≤ c2.run + 1) ∧
      (CopyEnds (copyIn .f0 (leaping (some c1)) [true] 9000#16) .f0 6 (leaping (some c1)) (recOf [true] 9000#16) ∧
        c1.run + 1 < stream.cfg.resyncRun.toNat) ∧
      (CopyEnds (copyIn .f1 (leaping (some c1)) [true] 8999#16) .f1 6 (leaping (some c1)) (recOf [true] 8999#16) ∧
        c1.port = otherPort .f1 ∧ distance 8999#16 c1.next = c1.run) ∧
      (CopyEnds (copyIn .f0 (leaping (some c1)) [true] 9001#16) .f0 6 (leaping (some c1)) (recOf [true] 9001#16) ∧
        c1.port = .f0 ∧ c1.next ≠ 9001#16 ∧ c1.port ≠ otherPort .f0) ∧
      (CopyEnds (copyIn .f1 (leaping (some c1)) [true] 9000#16) .f1 6 (leaping (some c1)) (recOf [true] 9000#16) ∧
        c1.port ≠ .f1 ∧ ¬(1 ≤ distance 9000#16 c1.next ∧ distance 9000#16 c1.next ≤ c1.run)) ∧
      (CopyEnds (copyIn .f1 (leaping (some c1)) [true] 8998#16) .f1 6 (leaping (some c1)) (recOf [true] 8998#16) ∧
        ¬(1 ≤ distance 8998#16 c1.next ∧ distance 8998#16 c1.next ≤ c1.run)) ∧
      CopyEnds (copyIn .f0 (leaping none) [true] 9000#16) .f0 6 (leaping none) (recOf [true] 9000#16) ∧
        1 < stream.cfg.resyncRun.toNat :=
  ⟨by decide +kernel, by decide +kernel, rfl,
    ⟨copyIs (by decide +kernel), notPending (by decide +kernel), by decide +kernel⟩,
    ⟨copyIs (by decide +kernel), by decide +kernel⟩, ⟨copyIs (by decide +kernel), by decide +kernel⟩,
    ⟨copyIs (by decide +kernel), by decide +kernel⟩, ⟨copyIs (by decide +kernel), by decide +kernel⟩,
    ⟨copyIs (by decide +kernel), by decide +kernel⟩, copyIs (by decide +kernel), by decide +kernel⟩

/-- A log with `n` equal records. -/
def logOf (n : Nat) : State :=
  { running with
    faults := List.replicate n { kind := .malformed, port := some .f0, fieldId := none, seq := none, part := none,
                                 firstTime := 0#32, lastTime := 0#32, repeats := 1#8 } }

theorem witness_LogTakesFaultsAndNotices :
    (logOf 1).faults.length = 1 ∧
      (∀ r ∈ (logOf 1).faults, r.kind = .malformed ∧ r.port = some .f0 ∧ r.fieldId = none) ∧
      (∀ n ∈ [10, 11, 12, 15, 16], ((logOf n).faults.getLast?.map (fun r => r.kind)) = some .malformed) ∧
      FaultKind.malformed ≠ .headerError ∧ noticeEnabled running.globals .faultsPending = true ∧
      noticeEnabled { running.globals with enables := 0#7 } .faultsPending = false ∧
      (List.replicate 7 (⟨.faultsPending, 0#32⟩ : NoticeRecord)).length < 8 := by decide +kernel

/-- The held copy as its wait expiry resolves it. -/
def subjectF0 : Subject :=
  { slot := 6, seq := 7200#16, via := .f0, good := [true, false], merged := false, mark := some .f1,
    frame := heldF0.frame }

/-- Under TRIM its first partition goes on, in its one cell. -/
theorem trimsF0 (v : State) : AfterPolicy v subjectF0 cfg ((v.returnCells [255].tail).bumpStream 6 .trimmed)
    ⟨heldF0.frame.bytes.take 26, [255]⟩ 1 true false :=
  .trimmed 1 26 1 rfl rfl (fun i hi => by interval_cases i; rfl) (by decide) rfl rfl

/-- What the resolution of the held copy hands on under TRIM and under MARK. -/
theorem witness_WaitExpiryAndPolicies :
    ((holding .whole).phase = .running ∧
      (holding .whole).held 0 = some heldF0 ∧
      (holding .whole).stream heldF0.slot = some { stream with cfg := { cfg with policy := .whole } } ∧
      lowestBad heldF0.good = some 1 ∧
      [true, false][1]? = some false ∧ [false][0]? = some false ∧ [true].all id = true ∧
      ∀ pol ∈ [DamagePolicy.trim, .mark], (holding pol).held 0 = some heldF0 ∧ (holding pol).linkUp .l = true ∧
        cellCount ((holding pol).queue (.cls 2)) + heldF0.frame.cells.length ≤
          (holding pol).globals.limits[(2 : Fin 4)].toNat) ∧
    (∀ v, AfterPolicy v subjectF0 cfg ((v.returnCells [255].tail).bumpStream 6 .trimmed)
      ⟨heldF0.frame.bytes.take 26, [255]⟩ 1 true false) ∧
    ∀ v, AfterPolicy v subjectF0 { cfg with policy := .mark } (v.bumpStream 6 .marked) heldF0.frame 2 false true :=
  ⟨by decide +kernel, trimsF0, fun _ => .marked 1 rfl rfl⟩

theorem witness_Resolution :
    (withStream stream).stream subjectF0.slot = some stream ∧
      (∀ x ∈ [([true, false], 1), ([false, true], 0)], x.1[x.2]? = some false ∧ ∀ i, i < x.2 → x.1[i]? = some true) ∧
      (∀ v, AfterPolicy v subjectF0 cfg ((v.returnCells [255].tail).bumpStream 6 .trimmed)
        ⟨heldF0.frame.bytes.take 26, [255]⟩ 1 true false) ∧
      (∀ v, AfterPolicy v { subjectF0 with good := [true, true] } cfg v subjectF0.frame 2 false false) ∧
      (lineDark.setSlot 6 (some stream)).linkUp .l = false ∧ (withStream stream).linkUp .l = true ∧
      stream.cfg.burst = 0#8 ∧ (policed 0#8).cfg.burst ≠ 0#8 ∧ (policed 0#8).credits = 0#8 ∧
      (policed 1#8).credits ≠ 0#8 ∧
      (fullClass stream).globals.limits[(2 : Fin 4)].toNat < cellCount ((fullClass stream).queue (.cls 2)) + 1 ∧
      cellCount ((withStream stream).queue (.cls 2)) + 1 ≤ (withStream stream).globals.limits[(2 : Fin 4)].toNat :=
  ⟨by decide +kernel, fun x hx => by
      simp only [List.mem_cons, List.not_mem_nil, or_false] at hx
      obtain rfl | rfl := hx
      · exact ⟨rfl, fun i hi => by interval_cases i; rfl⟩
      · exact ⟨rfl, fun i hi => absurd hi (Nat.not_lt_zero i)⟩,
    trimsF0, fun _ => .whole rfl, by decide +kernel⟩

theorem witness_TimersRunOut :
    (withStream stream).phase = .running ∧ (withStream stream).stream 6 = some stream ∧ stream.suspended = false ∧
      stream.path .f0 = .up (some 20#8) ∧
      ({ policed 0#8 with intervalTimer := some 10#8 } : Stream).intervalTimer = some 10#8 ∧
      leased.agent.lease = some ⟨7#16, some 20#8⟩ ∧ State.reset.phase = .loading := by decide +kernel

theorem witness_ArbiterPriority :
    running.linkUp .l = true ∧ (running.port .l).tx = none ∧ running.notices = [] ∧
      (laneOf 1).lane = queued [0] .passThrough :: [] ∧
      twoClasses.lane = [] ∧ twoClasses.queue (.cls 0) = queued [0] .data :: [] ∧
      (let s : State := { running with classes := #v[[], [], [], [queued [0] .data]] }
       (∀ c' : Fin 4, c' < 3 → s.queue (.cls c') = []) ∧ s.queue (.cls 3) = queued [0] .data :: []) ∧
      (let s : State := { running with command := ⟨[queued [0] .command], []⟩ }
       s.linkUp (portOf .f0) = true ∧ (s.port (portOf .f0)).tx = none ∧
         s.command.get .f0 = queued [0] .command :: []) := by decide +kernel

theorem witness_TransmissionEnds :
    ((sending .l .data).port .l).tx = some (queued [0, 1] .data) ∧ isResetResponse (queued [0, 1] .data) = false ∧
      isResetResponse (queued [0, 1] (.response true)) = true ∧
      (let s : State := { sending .l (.response true) with agent := { Agent.reset with fullPending := true } }
       (s.port .l).tx = some (queued [0, 1] (.response true)) ∧ s.agent.fullPending = true ∧ s.op.job? = none) ∧
      ((sending .f0 .command).port (portOf .f0)).tx = some (queued [0, 1] .command) ∧
      (sending .f0 .command).portHolds (otherPort .f0) (queued [0, 1] .command).frame = false ∧
      ({ sending .f0 .command with command := ⟨[], [queued [0, 1] .command]⟩ } : State).portHolds (otherPort .f0)
        (queued [0, 1] .command).frame = true := by decide +kernel

theorem witness_NoticeOffered :
    (let s : State := { laneOf 15 with notices := [⟨.sessionExpired 7#16, 0#32⟩, ⟨.faultsPending, 1#32⟩] }
     s.phase = .running ∧ s.linkUp .l = true ∧
       s.notices = ⟨.sessionExpired 7#16, 0#32⟩ :: [⟨.faultsPending, 1#32⟩] ∧
       cellCount s.lane + 1 ≤ 16 ∧ s.free = 0 :: allCells.drop 1) ∧
    lineDark.phase = .running ∧ lineDark.linkUp .l = false ∧ ({ running with free := [] } : State).free = [] ∧
      (let s : State := (laneOf 16).setPort .l { upPort with tx := some (queued [16] .data) }
       s.phase = .running ∧ 16 ≤ cellCount s.lane ∧ (s.port .l).tx ≠ none) := by decide +kernel

theorem witness_ReadsAnswered :
    TakesAtOnce running 7#16 1#16 ∧ (63#8 : Byte).toNat ≤ 63 ∧ (1#8 : Byte).toNat ≤ 1 ∧ (15#8 : Byte).toNat ≤ 15 :=
  ⟨takes (by decide +kernel), by decide +kernel⟩

theorem witness_ClearingReads :
    (TakesAtOnce leased 7#16 1#16 ∧ leased.holds 7#16 = true ∧ leased.op = .idle) ∧
      (63#8 : Byte).toNat = (63 : Fin 64).val ∧ 1 ≤ (1#8 : Byte).toNat ∧ (6#8 : Byte).toNat ≤ 6 :=
  ⟨leased_takes, by decide +kernel⟩

/-- The leased part with a cached response of tag 1 and `n` cells in the lane. -/
def cached (n : Nat) (content : List Byte) : State :=
  { laneOf n with agent := { leased.agent with cache := some ⟨1#16, content⟩ } }

theorem witness_Sessions :
    TakesAtOnce running 7#16 1#16 ∧ running.agent.lease = none ∧ running.op = .idle ∧ running.holds 7#16 = false ∧
      (TakesAtOnce leased 7#16 1#16 ∧ leased.holds 7#16 = true ∧ leased.op = .idle) ∧
      TakesAtOnce leased 8#16 1#16 ∧ leased.agent.lease = some ⟨7#16, some 20#8⟩ ∧ (7#16 : Word16) ≠ 8#16 ∧
      (let s : State := { saving .erase with agent := { leased.agent with lease := some ⟨7#16, none⟩ } }
       TakesAtOnce s 7#16 1#16 ∧ s.agent.lease = some ⟨7#16, none⟩ ∧ s.op ≠ .idle) :=
  ⟨takes (by decide +kernel), by decide +kernel, by decide +kernel, by decide +kernel, leased_takes,
    takes (by decide +kernel), by decide +kernel, by decide +kernel, takes (by decide +kernel), by decide +kernel⟩

theorem witness_Sessions_timer :
    (AgentIdle leased ∧ 1 ≤ leased.free.length ∧ leased.agent.lease = some ⟨7#16, some 20#8⟩) ∧
      Asks 7#16 1#16 (.identify 7#16 1#16) .identify ∧ Asks 8#16 1#16 (.commit 8#16 1#16) .commit ∧
      Request.identify ∉ [.closeSession, .commit, .saveImage, .sealImage, .resetPart 2#8] ∧
      (AgentIdle (cached 0 [12#8, 1#8]) ∧ (cached 0 [12#8, 1#8]).cachedFor 7#16 1#16 ≠ none ∧
        Asks 7#16 1#16 (.commit 7#16 1#16) .commit) :=
  ⟨⟨idles (by decide +kernel), by decide +kernel⟩, .identify, .commit, by decide +kernel,
    ⟨idles (by decide +kernel), by decide +kernel, .commit⟩⟩

/-- A staging area of `n` records for slots 0 to n - 1. -/
def areaOf (n : Nat) : State :=
  { leased with staging := (List.range n).map (fun i => .entry (Fin.ofNat 64 i) .retire none) }

theorem witness_Staging :
    TakesAtOnce (areaOf 15) 7#16 1#16 ∧ TakesAtOnce (areaOf 16) 7#16 1#16 ∧
      (areaOf 15).holds 7#16 = true ∧ (areaOf 15).op = .idle ∧
      (63#8 : Byte).toNat = (63 : Fin 64).val ∧ actionOfCode 3#8 = some .retire ∧ entryOk .retire none = true ∧
      (refusedByLock .retire && ((areaOf 15).stream 63).any (fun st => st.locked)) = false ∧
      (∀ x ∈ (areaOf 15).staging, sameRecordTarget (.entry 63 .retire none) x = false) ∧
      (areaOf 15).staging.length < 16 ∧
      (areaOf 3).staging = [.entry 0 .retire none] ++ [.entry 1 .retire none] ++ [.entry 2 .retire none] ∧
      sameRecordTarget (.entry 1 .lock none) (.entry 1 .retire none) = true ∧
      globalsOk (globalsFields (stationRecord 4095#16)) = true ∧
      (∀ x ∈ (areaOf 15).staging, sameRecordTarget (.globals (globalsFields (stationRecord 4095#16))) x = false) ∧
      (∀ x ∈ (areaOf 16).staging, sameRecordTarget (.entry 63 .retire none) x = false) ∧
      (∀ x ∈ (areaOf 16).staging, sameRecordTarget (.globals (globalsFields (stationRecord 4095#16))) x = false) ∧
      16 ≤ (areaOf 16).staging.length :=
  ⟨takes (by decide +kernel), takes (by decide +kernel), by decide +kernel⟩

theorem witness_Staging_refused :
    63 < (64#8 : Byte).toNat ∧ actionOfCode 0#8 = none ∧ actionOfCode 7#8 = none ∧ 1 < (2#8 : Byte).toNat ∧
      entryOk .install none = false ∧ entryOk .retire (some (entryFields noRecord)) = false ∧
      globalsOk (globalsFields (stationRecord 4096#16)) = false ∧
      (let s := leased.setSlot 6 (some { stream with locked := true })
       TakesAtOnce s 7#16 1#16 ∧ s.holds 7#16 = true ∧ (s.stream 6).any (fun st => st.locked) = true) ∧
      (let g := Staged.globals (globalsFields (stationRecord 5#16))
       let s : State := { leased with staging := [.entry 0 .retire none] ++ [g] ++ [.entry 2 .retire none] }
       TakesAtOnce s 7#16 1#16 ∧ sameRecordTarget (.globals (globalsFields (stationRecord 4095#16))) g = true) :=
  ⟨by decide +kernel, by decide +kernel, by decide +kernel, by decide +kernel, by decide +kernel, by decide +kernel,
    by decide +kernel, ⟨takes (by decide +kernel), by decide +kernel⟩, takes (by decide +kernel), by decide +kernel⟩

theorem witness_OperationsBegin :
    (TakesAtOnce staged 7#16 1#16 ∧ staged.holds 7#16 = true ∧ staged.op = .idle ∧ staged.staging ≠ [] ∧
      staged.imageState ≠ .sealed ∧ leased.staging = [] ∧ leased.imageState = .blank) ∧
    ∀ i : ImageState, TakesAtOnce { leased with imageState := i } 7#16 1#16 ∧
      ({ leased with imageState := i } : State).imageState = i :=
  ⟨⟨takes (by decide +kernel), by decide +kernel⟩, fun i => ⟨takes (by cases i <;> decide +kernel), rfl⟩⟩

theorem witness_RequestsRefused :
    TakesAtOnce running 7#16 1#16 ∧ requestFrameOk (List.replicate 26 0#8) = false ∧
      ((List.replicate 26 0#8).length + 63) / 64 ≤ running.free.length ∧
      15 < (16#8 : Byte).toNat ∧ (0#8 : Byte) = 0#8 ∧ running.holds 7#16 = false ∧ running.op = .idle ∧
      (TakesAtOnce { running with free := [0, 1, 2] } 7#16 1#16 ∧
        ({ running with free := [0, 1, 2] } : State).free.length < ((List.replicate 193 0#8).length + 63) / 64) ∧
      NeedsLease 7#16 1#16 (.commit 7#16 1#16) 12#8 ∧
      NeedsLease 7#16 1#16 (.readPortCounters 7#16 1#16 1#8 2#8) 6#8 ∧
      TakesAtOnce (saving .erase) 8#16 1#16 ∧ (saving .erase).holds 8#16 = false ∧ (saving .erase).op ≠ .idle :=
  ⟨takes (by decide +kernel), by decide +kernel, by decide +kernel, by decide +kernel, by decide +kernel,
    by decide +kernel, by decide +kernel, ⟨takes (by decide +kernel), by decide +kernel⟩, .commit,
    .readPortCounters 1#8 2#8 (by decide), takes (by decide +kernel), by decide +kernel⟩

theorem witness_ResponseCache :
    (AgentIdle (cached 15 [3#8, 0#8]) ∧ Asks 7#16 1#16 (.closeSession 7#16 1#16) .closeSession ∧
      (cached 15 [3#8, 0#8]).holds 7#16 = true ∧ (cached 15 [3#8, 0#8]).agent.cache = some ⟨1#16, [3#8, 0#8]⟩ ∧
      (8 + 34 * max 1 ((([3#8, 0#8] : List Byte).length + 31) / 32) + 63) / 64 = 1 ∧
      cellCount (cached 15 [3#8, 0#8]).lane + 1 ≤ 16 ∧ 1 ≤ (cached 15 [3#8, 0#8]).free.length) ∧
    (AgentIdle (cached 16 [3#8, 0#8]) ∧ 16 < cellCount (cached 16 [3#8, 0#8]).lane + 1) ∧
    (let s : State := { cached 0 (List.replicate 33 0#8) with free := [0] }
     AgentIdle s ∧ s.holds 7#16 = true ∧
       s.free.length < (8 + 34 * max 1 (((List.replicate 33 0#8).length + 31) / 32) + 63) / 64 ∧ 1 ≤ s.free.length) ∧
    (cached 16 []).cachedFor 7#16 2#16 = none ∧ (cached 16 []).op = .idle ∧ 16 ≤ cellCount (cached 16 []).lane ∧
      ({ leased with free := [0, 1] } : State).free.length ≤ 2 ∧ AgentIdle { leased with free := [0, 1] } :=
  ⟨⟨idles (by decide +kernel), .closeSession, by decide +kernel⟩, ⟨idles (by decide +kernel), by decide +kernel⟩,
    ⟨idles (by decide +kernel), by decide +kernel⟩, by decide +kernel, by decide +kernel, by decide +kernel,
    by decide +kernel, idles (by decide +kernel)⟩

theorem witness_TrafficReset :
    (let s := (leased.setSlot 6 (some stream)).setHeld 0 (some heldF0)
     TakesAtOnce s 7#16 1#16 ∧ s.holds 7#16 = true ∧ s.op = .idle ∧ s.stream 6 = some stream ∧
       Option.isSome (some stream) = true ∧ (s.held 0).any (fun h => h.slot == 6) = true ∧ s.notices = [] ∧
       s.agent.lease = some ⟨7#16, some 20#8⟩) ∧
    (let s : State := { sending .l (.notice 3#16) with
       agent := leased.agent, notices := noticed.notices, lane := (laneOf 2).lane }
     TakesAtOnce s 7#16 1#16 ∧ s.holds 7#16 = true ∧ (s.port .l).tx.isSome = true ∧ s.lane ≠ [] ∧
       s.notices[0]? = some ⟨.sessionExpired 7#16, 0#32⟩) ∧
    (let s : State := { lineDark with agent := leased.agent, notices := noticed.notices }
     TakesAtOnce s 7#16 1#16 ∧ s.holds 7#16 = true ∧ s.linkUp .l = false) :=
  ⟨⟨takes (by decide +kernel), by decide +kernel⟩, ⟨takes (by decide +kernel), by decide +kernel⟩,
    takes (by decide +kernel), by decide +kernel⟩

theorem witness_FullResetRequested :
    (TakesAtOnce leased 7#16 1#16 ∧ leased.holds 7#16 = true ∧ leased.op = .idle) ∧ leased.linkUp .l = true ∧
      (let s : State := { lineDark with agent := leased.agent }
       TakesAtOnce s 7#16 1#16 ∧ s.holds 7#16 = true ∧ s.op = .idle ∧ s.linkUp .l = false) :=
  ⟨leased_takes, by decide +kernel, takes (by decide +kernel), by decide +kernel⟩

theorem witness_RequestFramesDecode :
    (∀ code, Request.unknown 16#8 = .unknown code → 15 < code.toNat ∨ code = 0#8) ∧
      ∀ code, Request.identify = .unknown code → 15 < code.toNat ∨ code = 0#8 :=
  ⟨fun code h => by injection h with h; exact .inl (by rw [← h]; decide), fun code h => by cases h⟩

theorem witness_RejectedCommitEnd :
    (committing (.entry 5 .retire none)).phase = .running ∧
      (committing (.entry 5 .retire none)).op = .commit [.entry 5 .retire none] 7#16 ∧
      (committing (.entry 5 .retire none)).validate [.entry 5 .retire none] = .rejected 0 .slotState := by
  decide +kernel

/-- The fields of an INSTALL of 4.6's stream. -/
def fields6 : EntryFields :=
  { fieldId := some 520#16, lineId := some 77#16, size := some 16#8, policy := some 1#8, twinWait := none,
    jumpLimit := none, resyncRun := none, pathTimeout := none, cls := none, burst := none, interval := none,
    initial := none }

theorem witness_Validation :
    (withStream stream).stream 6 ≠ none ∧ (withStream stream).stream 5 = none ∧
      (withStream stream).stream 6 = some stream ∧ stream.suspended = false ∧
      ({ stream with locked := true } : Stream).locked = true ∧ stream.locked = false ∧
      configOf fields6 = some cfg ∧ stream.cfg.fieldId = cfg.fieldId ∧
      configOf { fields6 with fieldId := some 521#16 } = some { cfg with fieldId := 521#12 } ∧
      stream.cfg.fieldId ≠ 521#12 := by decide +kernel

/-- The set whose second record installs the fields of slot 6's stream into slot 5. -/
def twice (f : EntryFields) : List Staged :=
  [.globals (globalsFields (stationRecord 5#16)), .entry 5 .install (some f)]

theorem witness_Validation_set :
    (∃ j d, j ≠ 5 ∧ (withStream stream).resultingConfig (twice fields6) j = some d ∧ d.fieldId = cfg.fieldId) ∧
      (let f := { fields6 with fieldId := some 521#16 }
       (∀ j : Fin 64, j ≠ 5 → ((withStream stream).resultingConfig (twice f) j).all (fun d => d.fieldId ≠ 521#12) = true) ∧
         ∃ j d, j ≠ 5 ∧ (withStream stream).resultingConfig (twice f) j = some d ∧ d.lineId = cfg.lineId) ∧
      (∀ j : Fin 64, j ≠ 5 → (running.resultingConfig (twice fields6) j).isNone = true) ∧
      (let s := (withStream stream).setSlot 7 (some { stream with cfg := { cfg with fieldId := 522#12, lineId := 78#12 } })
       let l : List Staged := [.entry 7 .modify (some { fields6 with fieldId := some 522#16 })]
       ∃ j d, j ≠ 7 ∧ s.resultingConfig l j = some d ∧ d.lineId = 77#12) ∧
      twice fields6 = [.globals (globalsFields (stationRecord 5#16))] ++ [.entry 5 .install (some fields6)] ++ [] ∧
      (withStream stream).testRecord (twice fields6) (.globals (globalsFields (stationRecord 5#16))) = none ∧
      (withStream stream).testRecord (twice fields6) (.entry 5 .install (some fields6)) = some .fieldIdTaken ∧
      ∀ x ∈ twice fields6, running.testRecord (twice fields6) x = none :=
  ⟨⟨6, cfg, by decide +kernel⟩, ⟨by decide +kernel, 6, cfg, by decide +kernel⟩, by decide +kernel,
    ⟨6, cfg, by decide +kernel⟩, by decide +kernel⟩

theorem witness_AppliedCommitEnd :
    (∀ act ∈ [Action.retire, .suspend, .lock],
      ((committing (.entry 6 act none)).setSlot 6 (some stream)).validate [.entry 6 act none] = .applied) ∧
      ((committing (.entry 6 .resume none)).setSlot 6 (some { stream with suspended := true })).validate
        [.entry 6 .resume none] = .applied ∧
      (committing (.entry 6 .install (some fields6))).validate [.entry 6 .install (some fields6)] = .applied ∧
      ((committing (.entry 6 .modify (some fields6))).setSlot 6 (some stream)).validate
        [.entry 6 .modify (some fields6)] = .applied ∧
      (committing (.entry 6 .lock none)).op = .commit [.entry 6 .lock none] 7#16 ∧
      (committing (.entry 6 .lock none)).phase = .running ∧ configOf fields6 = some cfg ∧
      configOf { fields6 with size := some 32#8 } = some { cfg with size := .p32 } ∧ stream.cfg.size ≠ .p32 ∧
      ((holding .trim).held 0).any (fun h => h.slot == 6) = true ∧
      (committing (.globals (globalsFields (stationRecord 5#16)))).op =
        .commit [.globals (globalsFields (stationRecord 5#16))] 7#16 := by decide +kernel

theorem witness_BankPhases :
    (∃ j, (saving .erase).phase = .running ∧ (saving .erase).op = .save j ∧ j.phase = .erase) ∧
      ∃ j, (saving .write).phase = .running ∧ (saving .write).op = .save j ∧ j.phase = .write :=
  ⟨⟨_, rfl, rfl, rfl⟩, ⟨_, rfl, rfl, rfl⟩⟩

/-- The content of a bank, nearly all of it FFh. -/
def content : List Byte := [0#8, 0#8, 0#8, 1#8, 0#8] ++ List.replicate 1100 0xFF#8

/-- The same content with the sealed mark. -/
def sealedBody : List Byte := [0#8, 0#8, 0#8, 1#8, 1#8] ++ List.replicate 1100 0xFF#8

/-- Bytes that agree with their check word, and the same with another check word. -/
def goodBytes : List Byte := content ++ be32 (crc32 content)
def badBytes : List Byte := content ++ be32 (crc32 content + 1#32)
def sealedBytes : List Byte := sealedBody ++ be32 (crc32 sealedBody)

theorem length_filled (l : List Byte) (h : l.length = 5) : (l ++ List.replicate 1100 0xFF#8).length = contentSize := by
  rw [List.length_append, List.length_replicate, h]
  rfl

theorem content_length : content.length = contentSize := length_filled _ rfl

theorem sealedBody_length : sealedBody.length = contentSize := length_filled _ rfl

/-- The condition of a bank of 1109 bytes that begin with 00h, by its check word. -/
theorem condition_of (l : List Byte) (w : Word32) (h : l.length = contentSize) (h0 : l.head? = some 0#8) :
    Memory.condition (Memory.ofBytes (l ++ be32 w)) = if crc32 l = w then .valid else .bad := by
  have hl : (l ++ be32 w).length = 1109 := by simp [h, contentSize, be32]
  have hf : (l ++ be32 w).all (fun b => b == erasedByte) = false := by
    cases l with
    | nil => simp at h0
    | cons x xs =>
      have hx : x = 0#8 := by simpa using h0
      subst hx
      simp [erasedByte]
  unfold Memory.condition
  rw [Memory.bytes_ofBytes hl, checkAgrees_append h, hf]
  simp

theorem condition_erased : Memory.condition [] = .erased := by
  have h : (Memory.bytes []).all (fun b => b == erasedByte) = true := by
    rw [List.all_eq_true]
    intro b hb
    obtain ⟨_, _, rfl⟩ := List.mem_map.mp hb
    rfl
  rw [Memory.condition, if_pos h]

/-- A save of them in its read back. -/
def readingBack : BankJob :=
  { target := .a, phase := .readBack, bytes := goodBytes, saveCount := 1#32, manager := 7#16 }

theorem goodBytes_agree : checkAgrees goodBytes = true := by
  rw [goodBytes, checkAgrees_append content_length]
  simp

theorem goodBytes_length : goodBytes.length = 1109 := by
  rw [goodBytes, List.length_append, content_length]
  rfl

theorem badBytes_differ : checkAgrees badBytes = false := by
  rw [badBytes, checkAgrees_append content_length]
  simp

theorem witness_ReadBackEnds :
    (let s : State := { leased with op := .save readingBack, banks := ⟨Memory.ofBytes goodBytes, []⟩ }
     s.phase = .running ∧ s.op = .save readingBack ∧ readingBack.phase = .readBack ∧
       (∀ x ∈ ([] : List (Nat × Byte)), x.1 < 1109) ∧
       ((s.banks.get .a).patch []).bytes = readingBack.bytes ∧ checkAgrees readingBack.bytes = true) ∧
    (let s : State := { leased with op := .seal readingBack, banks := ⟨Memory.ofBytes goodBytes, []⟩ }
     s.phase = .running ∧ s.op = .seal readingBack ∧ ((s.banks.get .a).patch []).bytes = readingBack.bytes) ∧
    (let j : BankJob := { readingBack with bytes := badBytes }
     let s : State := { leased with op := .save j }
     s.phase = .running ∧ s.op = .save j ∧ j.phase = .readBack ∧ checkAgrees j.bytes = false) ∧
    (∀ op ∈ [Operation.save readingBack, .seal readingBack],
      let s : State := { leased with op := op }
      s.phase = .running ∧ (∀ x ∈ [((1108, 0#8) : Nat × Byte)], x.1 < 1109) ∧
        ((s.banks.get .a).patch [(1108, 0#8)]).bytes ≠ readingBack.bytes) :=
  ⟨⟨rfl, rfl, rfl, by simp, Memory.bytes_ofBytes goodBytes_length, goodBytes_agree⟩,
    ⟨rfl, rfl, Memory.bytes_ofBytes goodBytes_length⟩, ⟨rfl, rfl, rfl, badBytes_differ⟩, fun _ _ => ⟨rfl, by decide, by
      intro h
      have h0 := congrArg (fun l => l[0]?) h
      have h1 : (Memory.bytes [(1108, 0#8)])[0]? = some 0xFF#8 := by
        rw [Memory.bytes, List.getElem?_map, List.getElem?_range (by decide)]
        rfl
      exact absurd (h1.symm.trans h0) (by decide)⟩⟩

theorem goodBytes_valid : Memory.condition (Memory.ofBytes goodBytes) = .valid := by
  rw [goodBytes, condition_of _ _ content_length rfl, if_pos rfl]

theorem badBytes_bad : Memory.condition (Memory.ofBytes badBytes) = .bad := by
  rw [badBytes, condition_of _ _ content_length rfl, if_neg (by simp)]

theorem sealedBytes_valid : Memory.condition (Memory.ofBytes sealedBytes) = .valid := by
  rw [sealedBytes, condition_of _ _ sealedBody_length rfl, if_pos rfl]

/-- A valid bank beside an erased one is the newest. -/
theorem newest_a {b : PerBank Memory} (ha : b.a.condition = .valid) (hb : b.b.condition = .erased) :
    newestBank b = some .a := by
  unfold newestBank
  rw [ha, hb]

theorem newest_none : newestBank (⟨[], []⟩ : PerBank Memory) = none := by
  unfold newestBank
  rw [condition_erased]

theorem read_ofBody {body : List Byte} {w x : Byte} {c : Word32}
    (h : body[4]? = some x) (hx : x = w) : (Memory.ofBytes (body ++ be32 c)).read 4 = w := by
  have hl : 4 < body.length := (List.getElem?_eq_some_iff.mp h).1
  rw [Memory.read_ofBytes, List.getD_eq_getElem?_getD, List.getElem?_append_left hl, h, hx]
  rfl

theorem witness_ImageStates :
    (Memory.condition [] = .erased ∧ Memory.condition (Memory.ofBytes badBytes) = .bad ∧
      Memory.condition (Memory.ofBytes goodBytes) = .valid) ∧
    (newestBank ⟨Memory.ofBytes goodBytes, []⟩ = some .a ∧ (Memory.ofBytes goodBytes).read 4 = 0#8) ∧
    newestBank ⟨Memory.ofBytes sealedBytes, []⟩ = some .a ∧ (Memory.ofBytes sealedBytes).read 4 ≠ 0#8 :=
  ⟨⟨condition_erased, badBytes_bad, goodBytes_valid⟩,
    ⟨newest_a goodBytes_valid condition_erased, read_ofBody (x := 0#8) rfl rfl⟩,
    newest_a sealedBytes_valid condition_erased, by
      rw [show (Memory.ofBytes sealedBytes).read 4 = 1#8 from read_ofBody (x := 1#8) rfl rfl]
      decide⟩

theorem witness_OperationsBegin_banks :
    newestBank leased.banks = none ∧
      newestBank ({ leased with banks := ⟨Memory.ofBytes goodBytes, []⟩ } : State).banks = some .a :=
  ⟨newest_none, newest_a goodBytes_valid condition_erased⟩

theorem witness_BoundsKept : State.Bounded running ∧ ∃ t, step running = .next t :=
  ⟨⟨by decide +kernel, by decide +kernel, by decide +kernel, by decide +kernel, by decide +kernel⟩, _, rfl⟩

theorem witness_BanksKept : State.BanksSound running ∧ ∃ t, step running = .next t :=
  ⟨⟨fun bk => by cases bk <;> exact Memory.sound_nil, fun _ h => by cases h⟩, _, rfl⟩

theorem witness_RemembersKept : State.Remembers running ∧ ∃ t, step running = .next t := by
  have e : ∀ k, (running.stream k).isNone = true := by decide +kernel
  have r : ∀ q, (running.held q).isNone = true := by decide +kernel
  have ek : ∀ k st, running.stream k ≠ some st := fun k st h => by have := e k; rw [h] at this; simp at this
  have rq : ∀ q g, running.held q ≠ some g := fun q g h => by have := r q; rw [h] at this; simp at this
  exact ⟨⟨fun k st _ h => absurd h (ek k st), fun k st h => absurd h (ek k st), fun q g _ h => absurd h (rq q g),
    fun q _ g _ h => absurd h (rq q g)⟩, _, rfl⟩

/-- A reception of one byte, the next byte at the front of the queue. -/
def byteWaiting : State := { receiving running .f0 [1#8] with pending := [.dataByteReceived .f0 2#8] }

theorem witness_PoolKept : byteWaiting.PoolSound ∧ ∃ t, step byteWaiting = .next t :=
  ⟨⟨by
      rw [show byteWaiting.free ++ byteWaiting.cellsHeld = allCells.drop 1 ++ allCells.take 1 by decide +kernel]
      exact List.perm_append_comm.trans (by rw [List.take_append_drop]),
    fun p => by cases p <;> decide +kernel⟩, _, rfl⟩

theorem witness_TableKept : (withStream stream).TableSound ∧ ∃ t, step (withStream stream) = .next t := by
  have only : ∀ k st, (withStream stream).stream k = some st → k = 6 ∧ st = stream := by
    have h : ∀ k, k ≠ 6 → ((withStream stream).stream k).isNone = true := by decide +kernel
    intro k st hk
    by_cases e : k = 6
    · subst e
      exact ⟨rfl, Option.some.inj (hk.symm.trans (by decide +kernel))⟩
    · have := h k e
      rw [hk] at this
      exact absurd this (by simp)
  exact ⟨{ ids := fun i j a b hi hj _ => (only i a hi).1.trans (only j b hj).1.symm
           credits := fun k st hk => by rw [(only k st hk).2]; decide
           staged := ⟨.nil, fun _ _ _ h => absurd h List.not_mem_nil⟩
           committing := fun _ _ h => by cases h
           banks := fun bk h => by cases bk <;> exact absurd (condition_erased.symm.trans h) (by decide)
           job := fun _ h => by cases h
           image := fun _ _ h => by rcases h with h | h <;> cases h }, _, rfl⟩

theorem witness_LockKept :
    let s := withStream { stream with locked := true }
    ∃ t, step s = .next t ∧ t.phase = .running ∧ s.stream 6 = some { stream with locked := true } :=
  ⟨_, rfl, rfl, by decide +kernel⟩

theorem sealedBytes_mark : Memory.sealedMark (Memory.ofBytes sealedBytes) = true := by
  have h : sealedBytes[4]? = some 1#8 := by
    rw [sealedBytes, sealedBody, List.append_assoc]
    rfl
  rw [Memory.sealedMark, Memory.read_ofBytes, List.getD_eq_getElem?_getD, h]
  rfl

/-- The running part with a sealed image. -/
def sealedPart : State := { running with banks := ⟨Memory.ofBytes sealedBytes, []⟩, imageState := .sealed }

theorem sealed_of {b : PerBank Memory} (ha : b.a.condition = .valid) (hb : b.b.condition = .erased)
    (hm : b.a.sealedMark = true) : imageStateOf b = .sealed := by
  unfold imageStateOf newestBank
  rw [ha, hb]
  exact if_pos hm

theorem sealedPart_state : imageStateOf sealedPart.banks = .sealed :=
  sealed_of (b := ⟨Memory.ofBytes sealedBytes, []⟩) sealedBytes_valid condition_erased sealedBytes_mark

theorem sealedPart_idles : step sealedPart = .next sealedPart := by
  unfold step
  rw [show sealedPart.pending = [] from rfl]

theorem witness_SealedForGood : sealedPart.SealedImage ∧ ∃ t, step sealedPart = .next t :=
  ⟨⟨sealedPart_state, rfl, fun _ => rfl⟩, _, sealedPart_idles⟩

end Sys2Proof.Tests
end

section
/-! SUPPORT. What the data path does to the entries of the table: every operation of it keeps each slot's configuration, state and
lock, and credits within burst where they were so (R3, R10, R65). -/

namespace Sys2Proof.Machine

/-- A stream keeps its entry: configuration, lock and state the same, credits within burst if they were (R10, R65). -/
structure SameEntry (a b : Stream) : Prop where
  cfg : b.cfg = a.cfg
  locked : b.locked = a.locked
  suspended : b.suspended = a.suspended
  credits : a.credits.toNat ≤ a.cfg.burst.toNat → b.credits.toNat ≤ b.cfg.burst.toNat

theorem SameEntry.refl (a : Stream) : SameEntry a a := ⟨rfl, rfl, rfl, id⟩

theorem SameEntry.trans {a b c : Stream} (h : SameEntry a b) (g : SameEntry b c) : SameEntry a c :=
  ⟨g.cfg.trans h.cfg, g.locked.trans h.locked, g.suspended.trans h.suspended, fun hc => g.credits (h.credits hc)⟩

/-- An update that leaves configuration, lock, state and credits alone keeps the entry. -/
theorem SameEntry.of_eq {a b : Stream} (cfg : b.cfg = a.cfg) (locked : b.locked = a.locked)
    (suspended : b.suspended = a.suspended) (credits : b.credits = a.credits) : SameEntry a b :=
  ⟨cfg, locked, suspended, fun h => by rw [credits, cfg]; exact h⟩

/-- A slot keeps its entry: FREE in both, or a stream that keeps its entry. -/
def SameEntryAt (a b : Option Stream) : Prop := Option.Rel SameEntry a b

theorem SameEntryAt.refl (a : Option Stream) : SameEntryAt a a := by
  cases a with
  | none => exact .none
  | some st => exact .some (.refl st)

theorem SameEntryAt.trans {a b c : Option Stream} (h : SameEntryAt a b) (g : SameEntryAt b c) : SameEntryAt a c := by
  cases h with
  | none => exact g
  | some h => cases g with | some g => exact .some (h.trans g)

theorem SameEntryAt.map {f : Stream → Stream} {a : Option Stream} (h : ∀ st, a = some st → SameEntry st (f st)) :
    SameEntryAt a (a.map f) := by
  cases a with
  | none => exact .none
  | some st => exact .some (h st rfl)

theorem SameEntryAt.of_some {a b : Option Stream} {st : Stream} (h : SameEntryAt a b) (e : a = some st) :
    ∃ st', b = some st' ∧ SameEntry st st' := by
  subst e
  cases h with | some h => exact ⟨_, rfl, h⟩

theorem SameEntryAt.to_some {a b : Option Stream} {st : Stream} (h : SameEntryAt a b) (e : b = some st) :
    ∃ st', a = some st' ∧ SameEntry st' st := by
  subst e
  cases h with | some h => exact ⟨_, rfl, h⟩

/-- Every slot keeps its entry. -/
def EntriesKept (s t : State) : Prop := ∀ k, SameEntryAt (s.stream k) (t.stream k)

theorem EntriesKept.refl (s : State) : EntriesKept s s := fun _ => .refl _

theorem EntriesKept.trans {s t u : State} (a : EntriesKept s t) (b : EntriesKept t u) : EntriesKept s u :=
  fun k => (a k).trans (b k)

theorem EntriesKept.of_slots {s t : State} (h : t.slots = s.slots) : EntriesKept s t := fun k => by
  simp only [State.stream, h]
  exact .refl _

theorem State.mapStream_entries {s : State} {k : Fin 64} {f : Stream → Stream}
    (h : ∀ st, s.stream k = some st → SameEntry st (f st)) : EntriesKept s (s.mapStream k f) := fun j => by
  rw [State.mapStream_eq, State.stream_setSlot]
  split
  · next e => subst e; exact .map h
  · exact .refl _

theorem State.mapAllStreams_entries (s : State) {f : Stream → Stream} (h : ∀ st, SameEntry st (f st)) :
    EntriesKept s (s.mapAllStreams f) := fun k => by
  rw [State.stream_mapAllStreams]
  exact .map fun st _ => h st

/-- A step of the data path that keeps every entry: control state the same, logs bounded, no slot installed, changed in its
configuration or removed. -/
structure Flow (s t : State) : Prop where
  step : DataStep s t
  entries : EntriesKept s t

theorem Flow.refl (s : State) : Flow s s := ⟨.refl s, .refl s⟩

theorem Flow.trans {s t u : State} (a : Flow s t) (b : Flow t u) : Flow s u :=
  ⟨a.step.trans b.step, a.entries.trans b.entries⟩

theorem Flow.of_slots {s t : State} (h : DataStep s t) (e : t.slots = s.slots) : Flow s t := ⟨h, .of_slots e⟩

/-- A fold of operations that keep the entries keeps them. -/
theorem Flow.foldl {α : Type} {f : State → α → State} (h : ∀ s a, Flow s (f s a)) (l : List α) (s : State) :
    Flow s (l.foldl f s) := by
  induction l generalizing s with
  | nil => exact .refl s
  | cons a l ih => exact (h s a).trans (ih _)

/-! ### Updates of one part -/

theorem State.setPort_flow (s : State) (p : Port) (x : PortState) : Flow s (s.setPort p x) :=
  .of_slots (s.setPort_step p x) rfl

theorem State.setHeld_flow (s : State) (r : Fin 8) (x : Option Held) : Flow s (s.setHeld r x) :=
  .of_slots (s.setHeld_step r x) rfl

theorem State.returnCells_flow (s : State) (l : List CellId) : Flow s (s.returnCells l) :=
  .of_slots (s.returnCells_step l) rfl

theorem State.release_flow (s : State) (f : Frame) : Flow s (s.release f) := s.returnCells_flow _

theorem State.bumpPort_flow (s : State) (p : Port) (c : PortCtr) : Flow s (s.bumpPort p c) := s.setPort_flow p _

theorem State.bumpGlobal_flow (s : State) (c : GlobalCtr) : Flow s (s.bumpGlobal c) := .of_slots (s.bumpGlobal_step c) rfl

theorem State.reportNotSent_flow (s : State) (o : Origin) : Flow s (s.reportNotSent o) :=
  .of_slots (s.reportNotSent_step o) rfl

theorem State.enqueue_flow (s : State) (q : QueueId) (x : Queued) : Flow s (s.enqueue q x) :=
  .of_slots (s.enqueue_step q x) (s.setQueue_slots q _)

theorem State.mapStream_flow {s : State} {k : Fin 64} {f : Stream → Stream}
    (h : ∀ st, s.stream k = some st → SameEntry st (f st)) : Flow s (s.mapStream k f) :=
  ⟨s.mapStream_step k f, State.mapStream_entries h⟩

theorem State.mapAllStreams_flow (s : State) {f : Stream → Stream} (h : ∀ st, SameEntry st (f st)) :
    Flow s (s.mapAllStreams f) := ⟨s.mapAllStreams_step f, s.mapAllStreams_entries h⟩

theorem State.bumpStream_flow (s : State) (k : Fin 64) (c : StreamCtr) : Flow s (s.bumpStream k c) :=
  State.mapStream_flow fun _ _ => .of_eq rfl rfl rfl rfl

theorem State.grant_flow {s s' : State} {n keep : Nat} {cells : List CellId} (h : s.grant n keep = some (cells, s')) :
    Flow s s' := by
  refine .of_slots (State.grant_step h) ?_
  obtain ⟨_, _, rfl⟩ := State.grant_spec h
  rfl

theorem State.grantReceiver_flow {s s' : State} {p : Port} {cells : List CellId}
    (h : s.grantReceiver p = some (cells, s')) : Flow s s' := by
  obtain ⟨_, h, _⟩ := State.grantReceiver_spec h
  exact State.grant_flow h

theorem State.raiseNotice_flow (s : State) (b : NoticeBody) : Flow s (s.raiseNotice b) := by
  refine .of_slots (s.raiseNotice_step b) ?_
  obtain ⟨n, l, g, e, _⟩ := s.raiseNotice_spec b
  rw [e]

theorem State.raiseFault_flow (s : State) (f : FaultInfo) : Flow s (s.raiseFault f) := by
  refine .of_slots (s.raiseFault_step f) ?_
  obtain ⟨q, o, n, l, g, e⟩ := s.raiseFault_spec f
  rw [e]

/-! ### Queues, transmitters and what follows at once -/

theorem State.releaseShared_flow (s : State) (p : FPort) (f : Frame) : Flow s (s.releaseShared p f) := by
  unfold State.releaseShared
  split
  · exact .refl s
  · exact s.release_flow f

theorem State.releaseTx_flow (s : State) (p : Port) (f : Frame) : Flow s (s.releaseTx p f) := by
  cases p with
  | f0 => exact s.releaseShared_flow .f0 f
  | f1 => exact s.releaseShared_flow .f1 f
  | l => exact s.release_flow f

theorem State.flush_flow (s : State) (q : QueueId) : Flow s (s.flush q) :=
  .of_slots (s.flush_step q) (s.flush_flushes q).1.slots

theorem State.startTx_flow (s : State) (p : Port) : Flow s (s.startTx p) :=
  .of_slots (s.startTx_step p) (s.startTx_egress p).same.1

theorem State.feedNotices_flow (s : State) : Flow s s.feedNotices :=
  .of_slots s.feedNotices_step s.feedNotices_egress.same.1

/-- What follows at once keeps every entry (R96, R109, R112). -/
theorem State.settle_flow (s : State) : Flow s s.settle :=
  State.settle_induct (P := fun u => Flow s u) (.refl s) (fun u h => h.trans u.feedNotices_flow)
    (fun u p h => h.trans (u.startTx_flow p))

/-! ### Streams -/

/-- Policing takes a credit where there is one (R64). -/
theorem policed_credits (st : Stream) : (policed st).2.toNat ≤ st.credits.toNat := by
  unfold policed
  split
  · exact le_rfl
  · split
    · exact le_rfl
    · next h =>
      have : 1 ≤ st.credits.toNat := Nat.pos_of_ne_zero fun e => h (BitVec.eq_of_toNat_eq e)
      show (st.credits - 1#8).toNat ≤ _
      rw [BitVec.toNat_sub_of_le (by simpa [BitVec.le_def] using this)]
      omega

theorem Stream.record_entry (seq : Word16) (m : Option FPort) (st : Stream) : SameEntry st (st.record seq m) := by
  unfold Stream.record
  split
  · exact .of_eq rfl rfl rfl rfl
  · exact .refl st

theorem Stream.countDuplicate_entry (seq : Word16) (p : FPort) (st : Stream) :
    SameEntry st (st.countDuplicate seq p) := by
  unfold Stream.countDuplicate
  split <;> exact .of_eq rfl rfl rfl rfl

theorem Stream.pathOnLinkLoss_entry (p : FPort) (now : Word32) (st : Stream) :
    SameEntry st (st.pathOnLinkLoss p now) := by
  unfold Stream.pathOnLinkLoss
  split
  · exact .refl st
  · exact .of_eq rfl rfl rfl rfl

theorem Stream.pathOnLinkUp_entry (p : FPort) (st : Stream) : SameEntry st (st.pathOnLinkUp p) := by
  unfold Stream.pathOnLinkUp
  split
  · exact .refl st
  · exact .of_eq rfl rfl rfl rfl

theorem Stream.setPath_entry (p : FPort) (x : Path) (st : Stream) : SameEntry st (st.setPath p x) :=
  .of_eq rfl rfl rfl rfl

theorem Stream.setCandidate_entry (x : Option Candidate) (st : Stream) : SameEntry st (st.setCandidate x) :=
  .of_eq rfl rfl rfl rfl

/-- A refill brings the credits to the burst (R66). -/
theorem Stream.refill_entry (st : Stream) : SameEntry st st.refill := ⟨rfl, rfl, rfl, fun _ => le_rfl⟩

/-- A TRAFFIC reset keeps a stream's entry, its credits at the burst (R19, R68). -/
theorem Stream.trafficReset_entry (st : Stream) : SameEntry st st.trafficReset := ⟨rfl, rfl, rfl, fun _ => le_rfl⟩

/-! ### Paths, resolutions, links -/

theorem State.evidence_flow (s : State) (k : Fin 64) (p : FPort) : Flow s (s.evidence k p) := by
  unfold State.evidence
  split
  · exact .refl s
  · next st _ =>
    have a : Flow s (s.mapStream k (Stream.setPath p (.up (some st.cfg.pathTimeout)))) :=
      State.mapStream_flow fun st _ => st.setPath_entry p _
    dsimp only
    split
    · exact a.trans (State.raiseNotice_flow _ _)
    · exact a

theorem State.pathsLinkLoss_flow (s : State) (p : FPort) : Flow s (s.pathsLinkLoss p) :=
  (s.mapAllStreams_flow (Stream.pathOnLinkLoss_entry p s.count)).trans (State.raiseNotice_flow _ _)

theorem State.pathsLinkUp_flow (s : State) (p : FPort) : Flow s (s.pathsLinkUp p) :=
  (s.mapAllStreams_flow (Stream.pathOnLinkUp_entry p)).trans (State.raiseNotice_flow _ _)

theorem State.enqueueClass_flow (s : State) (k : Fin 64) (c : Fin 4) (f : Frame) : Flow s (s.enqueueClass k c f) := by
  unfold State.enqueueClass
  split
  · exact (s.enqueue_flow _ _).trans (State.bumpStream_flow _ _ _)
  · exact ((s.release_flow f).trans (State.bumpStream_flow _ _ _)).trans (State.bumpGlobal_flow _ _)

theorem State.forward_flow (s : State) (x : Subject) (f : Frame) (n : Nat) (a b : Bool) :
    Flow s (s.forward x f n a b) := by
  unfold State.forward
  split
  · exact s.release_flow f
  · next st hst =>
    split
    · dsimp only
      split
      · refine (State.mapStream_flow fun st' h' => ?_).trans (State.enqueueClass_flow _ _ _ _)
        obtain rfl : st = st' := Option.some.inj (hst.symm.trans h')
        exact ⟨rfl, rfl, rfl, (policed_credits st).trans⟩
      · exact (s.release_flow f).trans (State.bumpStream_flow _ _ _)
    · exact (s.release_flow f).trans (State.bumpStream_flow _ _ _)

theorem State.settleFrame_flow (s : State) (x : Subject) (cfg : StreamConfig) : Flow s (s.settleFrame x cfg) := by
  unfold State.settleFrame
  split
  · exact s.forward_flow _ _ _ _ _
  · exact ((s.release_flow _).trans (State.bumpStream_flow _ _ _)).trans (State.raiseFault_flow _ _)
  · exact ((s.returnCells_flow _).trans (State.bumpStream_flow _ _ _)).trans (State.forward_flow _ _ _ _ _ _)
  · exact (s.bumpStream_flow _ _).trans (State.forward_flow _ _ _ _ _ _)

/-- A resolution keeps every entry (R61). -/
theorem State.resolve_flow (s : State) (x : Subject) : Flow s (s.resolve x) := by
  unfold State.resolve
  split
  · exact s.release_flow _
  · exact (State.mapStream_flow fun st _ => Stream.record_entry _ _ st).trans (State.settleFrame_flow _ _ _)

theorem State.resolveHeld_flow (s : State) (r : Fin 8) (e : Bool) : Flow s (s.resolveHeld r e) := by
  unfold State.resolveHeld
  split
  · exact .refl s
  · exact (s.setHeld_flow r none).trans (State.resolve_flow _ _)

theorem State.discardHeld_flow (s : State) (r : Fin 8) : Flow s (s.discardHeld r) := by
  unfold State.discardHeld
  split
  · exact .refl s
  · exact ((s.setHeld_flow r none).trans (State.release_flow _ _)).trans (State.bumpStream_flow _ _ _)

theorem State.discardStream_flow (s : State) (k : Fin 64) : Flow s (s.discardStream k) := by
  refine Flow.foldl (fun s r => ?_) _ _
  split
  · exact s.discardHeld_flow r
  · exact .refl s

theorem State.forceResolve_flow (s : State) (p : FPort) : Flow s (s.forceResolve p) := by
  refine Flow.foldl (fun s r => ?_) _ _
  split
  · exact s.resolveHeld_flow r _
  · exact .refl s

theorem State.detect_flow (s : State) (p : Port) : Flow s (s.detect p) := by
  unfold State.detect
  split
  · exact s.setPort_flow p _
  · exact .refl s

theorem State.abandon_flow (s : State) (p : Port) (c : PortCtr) : Flow s (s.abandon p c) := by
  unfold State.abandon
  split
  · exact ((s.setPort_flow p _).trans (State.returnCells_flow _ _)).trans (State.bumpPort_flow _ _ _)
  · exact .refl s

theorem State.abandonMalformed_flow (s : State) (p : Port) : Flow s (s.abandonMalformed p) := by
  unfold State.abandonMalformed
  split
  · exact (s.abandon_flow p _).trans (State.raiseFault_flow _ _)
  · exact .refl s

theorem State.poolEmpty_flow (s : State) (p : Port) : Flow s (s.poolEmpty p) :=
  (s.bumpPort_flow p _).trans (State.raiseFault_flow _ _)

theorem State.abandonPoolEmpty_flow (s : State) (p : Port) : Flow s (s.abandonPoolEmpty p) := by
  unfold State.abandonPoolEmpty
  split
  · exact ((s.setPort_flow p _).trans (State.returnCells_flow _ _)).trans (State.poolEmpty_flow _ _)
  · exact .refl s

theorem State.cutTx_flow (s : State) (p : Port) : Flow s (s.cutTx p) := by
  unfold State.cutTx
  split
  · exact (((s.setPort_flow p _).trans (State.releaseTx_flow _ _ _)).trans (State.bumpPort_flow _ _ _)).trans
      (State.reportNotSent_flow _ _)
  · exact .refl s

theorem State.fieldLinkLoss_flow (s : State) (p : FPort) : Flow s (s.fieldLinkLoss p) :=
  ((((((s.setPort_flow (portOf p) _).trans (State.abandon_flow _ _ _)).trans (State.cutTx_flow _ _)).trans
    (State.flush_flow _ _)).trans (State.pathsLinkLoss_flow _ _)).trans (State.forceResolve_flow _ _)).trans
    (State.detect_flow _ _)

theorem State.dropLine_flow (s : State) : Flow s s.dropLine :=
  (((((((s.setPort_flow .l _).trans (State.abandon_flow _ _ _)).trans (State.cutTx_flow _ _)).trans
    (State.flush_flow _ _)).trans (State.flush_flow _ _)).trans (State.flush_flow _ _)).trans
    (State.flush_flow _ _)).trans (State.flush_flow _ _)

theorem State.linkComesUp_flow (s : State) (p : Port) : Flow s (s.linkComesUp p) := by
  cases p with
  | f0 => exact (s.setPort_flow .f0 _).trans (State.pathsLinkUp_flow _ .f0)
  | f1 => exact (s.setPort_flow .f1 _).trans (State.pathsLinkUp_flow _ .f1)
  | l => exact s.setPort_flow .l _

/-! ### The classifier -/

theorem State.dropCopy_flow (s : State) (c : Copy) (k : StreamCtr) : Flow s (s.dropCopy c k) :=
  (s.release_flow _).trans (State.bumpStream_flow _ _ _)

theorem State.countChecks_flow (s : State) (c : Copy) : Flow s (s.countChecks c) := by
  unfold State.countChecks
  split
  · exact (s.bumpStream_flow _ _).trans (State.evidence_flow _ _ _)
  · exact s.bumpStream_flow _ _

theorem State.meetHeld_flow (s : State) (r : Fin 8) (h : Held) (c : Copy) (cfg : StreamConfig) :
    Flow s (s.meetHeld r h c cfg) := by
  have free : ∀ (f : Frame) (n : StreamCtr), Flow s (((s.setHeld r none).release f).bumpStream c.slot n) := fun f n =>
    ((s.setHeld_flow r none).trans (State.release_flow _ f)).trans (State.bumpStream_flow _ _ n)
  unfold State.meetHeld
  split
  · exact s.dropCopy_flow c _
  · split
    · exact ((s.release_flow _).trans (State.raiseFault_flow _ _)).trans (State.resolveHeld_flow _ _ _)
    · split
      · exact (free _ _).trans (State.resolve_flow _ _)
      · exact (free _ _).trans (State.resolve_flow _ _)

theorem State.holdOrResolve_flow (s : State) (c : Copy) (st : Stream) : Flow s (s.holdOrResolve c st) := by
  unfold State.holdOrResolve
  split
  · split
    · exact s.setHeld_flow _ _
    · exact ((s.bumpGlobal_flow _).trans (State.raiseFault_flow _ _)).trans (State.resolve_flow _ _)
  · exact s.resolve_flow _

theorem State.forceResync_flow (s : State) (c : Copy) (f : Id12) (t : Word16) : Flow s (s.forceResync c f t) :=
  have emptied : Flow s (s.mapStream c.slot Stream.emptyHistory) :=
    State.mapStream_flow fun _ _ => .of_eq rfl rfl rfl rfl
  ((((emptied.trans (State.discardStream_flow _ _)).trans (State.bumpStream_flow _ _ _)).trans
    (State.raiseFault_flow _ _)).trans (State.raiseNotice_flow _ _)).trans (State.resolve_flow _ _)

theorem State.leapCopy_flow (s : State) (c : Copy) (st : Stream) : Flow s (s.leapCopy c st) := by
  unfold State.leapCopy
  split
  · dsimp only
    split
    · exact s.forceResync_flow _ _ _
    · exact (State.mapStream_flow fun st _ => st.setCandidate_entry _).trans (State.dropCopy_flow _ _ _)
  · exact s.dropCopy_flow _ _

theorem State.classifyCopy_flow (s : State) (c : Copy) (st : Stream) : Flow s (s.classifyCopy c st) := by
  unfold State.classifyCopy
  split
  · split
    · exact s.resolve_flow _
    · exact s.holdOrResolve_flow c st
  · exact (s.release_flow _).trans (State.mapStream_flow fun st _ => Stream.countDuplicate_entry _ _ st)
  · exact s.dropCopy_flow _ _
  · exact s.leapCopy_flow c st

theorem State.routeCopy_flow (s : State) (c : Copy) (st : Stream) : Flow s (s.routeCopy c st) := by
  unfold State.routeCopy
  split
  · split
    · exact s.meetHeld_flow _ _ _ _
    · exact s.classifyCopy_flow c st
  · exact s.classifyCopy_flow c st

theorem State.activeCopy_flow (s : State) (p : FPort) (k : Fin 64) (st : Stream) (f : Frame) :
    Flow s (s.activeCopy p k st f) := by
  unfold State.activeCopy
  split
  · exact (s.countChecks_flow _).trans (State.routeCopy_flow _ _ _)
  · exact ((s.release_flow f).trans (State.bumpStream_flow _ _ _)).trans (State.raiseFault_flow _ _)

theorem State.dataCopy_flow (s : State) (p : FPort) (f : Frame) : Flow s (s.dataCopy p f) := by
  unfold State.dataCopy
  split
  · exact ((s.release_flow f).trans (State.bumpGlobal_flow _ _)).trans (State.raiseFault_flow _ _)
  · split
    · exact s.release_flow f
    · split
      · exact (s.release_flow f).trans (State.bumpStream_flow _ _ _)
      · exact s.activeCopy_flow _ _ _ _

/-! ### Dispatch -/

theorem State.offerCommand_flow (s : State) (p : FPort) (f : Frame) : Flow s (s.offerCommand p f) := by
  unfold State.offerCommand
  split
  · exact s.enqueue_flow _ _
  · exact s.bumpGlobal_flow _

theorem State.sendToField_flow (s : State) (f : Frame) : Flow s (s.sendToField f) := by
  have offered := (s.offerCommand_flow .f0 f).trans (State.offerCommand_flow _ .f1 f)
  unfold State.sendToField
  dsimp only
  split
  · exact offered
  · exact offered.trans (State.release_flow _ _)

theorem State.passThrough_flow (s : State) (f : Frame) : Flow s (s.passThrough f) := by
  unfold State.passThrough
  split
  · exact s.enqueue_flow _ _
  · exact (s.release_flow f).trans (State.bumpGlobal_flow _ _)

theorem State.fieldControl_flow (s : State) (p : FPort) (f : Frame) : Flow s (s.fieldControl p f) :=
  ((s.release_flow f).trans (State.bumpGlobal_flow _ _)).trans (State.raiseFault_flow _ _)

theorem State.lineData_flow (s : State) (f : Frame) : Flow s (s.lineData f) :=
  (s.release_flow f).trans (State.bumpGlobal_flow _ _)

theorem State.headerError_flow (s : State) (p : Port) (f : Frame) : Flow s (s.headerError p f) :=
  ((s.release_flow f).trans (State.bumpPort_flow _ _ _)).trans (State.raiseFault_flow _ _)

theorem State.dispatchField_flow (s : State) (p : FPort) (f : Frame) (k : Kind) : Flow s (s.dispatchField p f k) := by
  cases k with
  | data => exact s.dataCopy_flow p f
  | command => exact s.fieldControl_flow p f
  | mgmtReq => exact s.fieldControl_flow p f
  | mgmtRsp => exact s.passThrough_flow f
  | mgmtNotice => exact s.passThrough_flow f

/-! ### Symbols and timers -/

theorem State.breakRun_flow (s : State) (p : Port) : Flow s (s.breakRun p) := by
  unfold State.breakRun
  split
  · exact s.setPort_flow p _
  · exact .refl s
  · exact .refl s

theorem State.beginReception_flow (s : State) (p : Port) : Flow s (s.beginReception p) := by
  unfold State.beginReception
  split
  · next h => exact (State.grantReceiver_flow h).trans (State.setPort_flow _ _ _)
  · exact s.poolEmpty_flow p

theorem State.startMarker_flow (s : State) (p : Port) : Flow s (s.startMarker p) :=
  (s.abandonMalformed_flow p).trans (State.beginReception_flow _ p)

theorem State.dataByte_flow (s : State) (p : Port) (b : Byte) : Flow s (s.dataByte p b) := by
  unfold State.dataByte
  split
  · exact .refl s
  · split
    · exact s.abandonMalformed_flow p
    · split
      · split
        · next h => exact (State.grantReceiver_flow h).trans (State.setPort_flow _ _ _)
        · exact s.abandonPoolEmpty_flow p
      · exact s.setPort_flow p _

theorem State.alignmentWord_flow (s : State) (p : Port) (a : Bool) : Flow s (s.alignmentWord p a) := by
  unfold State.alignmentWord
  split
  · exact .refl s
  · dsimp only
    split
    · exact s.linkComesUp_flow p
    · exact s.setPort_flow p _
  · exact s.abandonMalformed_flow p

theorem State.alignmentTimeout_flow (s : State) (p : Port) : Flow s (s.alignmentTimeout p) := by
  unfold State.alignmentTimeout
  split
  · exact (s.setPort_flow p _).trans (State.detect_flow _ p)
  · exact .refl s
  · exact .refl s

theorem State.pathTimeout_flow (s : State) (k : Fin 64) (p : FPort) : Flow s (s.pathTimeout k p) := by
  unfold State.pathTimeout
  split
  · exact (State.mapStream_flow fun st _ => st.setPath_entry p _).trans (State.raiseNotice_flow _ _)
  · exact .refl s

theorem State.intervalTimeout_flow (s : State) (k : Fin 64) : Flow s (s.intervalTimeout k) := by
  unfold State.intervalTimeout
  split
  · exact State.mapStream_flow fun st _ => st.refill_entry
  · exact .refl s

theorem State.finishTx_flow (s : State) (p : Port) (f : Frame) : Flow s (s.finishTx p f) :=
  ((s.setPort_flow p _).trans (State.releaseTx_flow _ _ _)).trans (State.bumpPort_flow _ _ _)

/-- A TRAFFIC reset keeps every entry (R19, R134). -/
theorem State.trafficReset_flow (s : State) : Flow s s.trafficReset := by
  refine ⟨s.trafficReset_step, ?_⟩
  have discarded : Flow s s.discardAll := Flow.foldl (fun s r => s.discardHeld_flow r) _ _
  have cleared : Flow s (s.discardAll.mapAllStreams Stream.trafficReset).reportReleased :=
    (discarded.trans (State.mapAllStreams_flow _ Stream.trafficReset_entry)).trans
      (Flow.foldl (fun s (x : Queued) => s.reportNotSent_flow x.origin) _ _)
  unfold State.trafficReset
  dsimp only
  generalize (s.discardAll.mapAllStreams Stream.trafficReset).reportReleased = u at cleared
  exact cleared.entries

end Sys2Proof.Machine
end


section
/-! SUPPORT. The layout of a bank: what stands where in a written bank, and what a load reads of it (R166, R169, R179,
Table 12-9). -/

namespace Sys2Proof.Machine

/-! ### Numbers in bytes -/

/-- A 16-bit number sent as two bytes is read back. -/
theorem be16_joined (x : Word16) : x.extractLsb' 8 8 ++ x.extractLsb' 0 8 = x := by
  ext i hi
  rw [BitVec.getElem_append]
  split
  · next h => simp [← BitVec.getLsbD_eq_getElem, h]
  · next h =>
    rw [BitVec.getElem_extractLsb', BitVec.getLsbD_eq_getElem (by omega)]
    congr 1
    omega

/-- An id sent as a 16-bit number is read back (R1). -/
theorem idOfWord_setWidth (x : Id12) : idOfWord (x.setWidth 16) = some x := by
  have h : x.toNat ≤ 4095 := by have := x.isLt; omega
  have e : (x.setWidth 16).toNat = x.toNat := by rw [BitVec.toNat_setWidth]; omega
  unfold idOfWord
  rw [if_pos (by rw [e]; exact h)]
  congr 1
  apply BitVec.eq_of_toNat_eq
  rw [BitVec.toNat_setWidth, e]
  exact Nat.mod_eq_of_lt x.isLt

@[simp] theorem imageId_setWidth (x : Id12) : imageId (x.setWidth 16) = x := by
  rw [imageId, idOfWord_setWidth, Option.getD_some]

@[simp] theorem partSizeOfByte_partSizeByte (z : PartSize) : partSizeOfByte (partSizeByte z) = some z := by
  cases z <;> rfl

@[simp] theorem policyOfCode_policyCode (x : DamagePolicy) : policyOfCode (policyCode x) = some x := by
  cases x <;> rfl

@[simp] theorem classOfByte_byteOf (c : Fin 4) : classOfByte (byteOf c.val) = some c := by
  revert c
  decide

@[simp] theorem slotStateOfCode_slotStateCode (x : SlotState) : slotStateOfCode (slotStateCode x) = some x := by
  cases x <;> rfl

/-! ### Blocks of equal length -/

/-- The block of a member, in a list of blocks of one length. -/
theorem take_drop_flatMap {α β : Type} {n : Nat} {f : α → List β} (h : ∀ a, (f a).length = n) (l : List α) (tail : List β)
    (i : Nat) (hi : i < l.length) : ((l.flatMap f ++ tail).drop (n * i)).take n = f l[i] := by
  induction l generalizing i with
  | nil => exact absurd hi (Nat.not_lt_zero i)
  | cons a l ih =>
    rw [List.flatMap_cons, List.append_assoc]
    cases i with
    | zero => rw [Nat.mul_zero, List.drop_zero, List.take_left' (h a), List.getElem_cons_zero]
    | succ i =>
      rw [Nat.mul_succ, Nat.add_comm, ← List.drop_drop, List.drop_left' (h a), List.getElem_cons_succ]
      exact ih i (Nat.lt_of_succ_lt_succ hi)

@[simp] theorem length_slotImage (x : Option Stream) : (slotImage x).length = 17 := by
  unfold slotImage
  cases x <;> simp

theorem length_allSlots : allSlots.length = 64 := by simp [allSlots]

theorem getElem_allSlots (k : Fin 64) : allSlots[k.val]'(by rw [length_allSlots]; exact k.isLt) = k := by
  revert k
  decide

/-! ### The header and the slots of a bank -/

/-- The first 17 bytes that a save writes: save count, mark, station and globals (Table 12-9). -/
def imageHeader (g : Globals) (n : Word32) (mark : Byte) : List Byte :=
  be32 n ++ [mark] ++ be16 (g.station.setWidth 16) ++ be16 g.limits[0] ++ be16 g.limits[1] ++ be16 g.limits[2] ++
    be16 g.limits[3] ++ [g.leaseTimeout, g.enables.setWidth 8]

theorem vector4_toList {α : Type} (v : Vector α 4) : v.toList = [v[0], v[1], v[2], v[3]] := by
  apply List.ext_getElem
  · simp
  · intro i h1 h2
    have : i = 0 ∨ i = 1 ∨ i = 2 ∨ i = 3 := by simp at h2; omega
    rcases this with rfl | rfl | rfl | rfl <;> simp

theorem vector4_eta {α : Type} (v : Vector α 4) : #v[v[0], v[1], v[2], v[3]] = v := by
  ext i hi
  have : i = 0 ∨ i = 1 ∨ i = 2 ∨ i = 3 := by omega
  rcases this with rfl | rfl | rfl | rfl <;> simp

/-- The content of a save: the header, then the slots in order. -/
theorem State.liveContent_eq (s : State) (n : Word32) (mark : Byte) :
    s.liveContent n mark = imageHeader s.globals n mark ++ allSlots.flatMap (fun k => slotImage (s.stream k)) := by
  unfold State.liveContent imageHeader
  rw [vector4_toList]
  simp [idBytes]

/-- The bytes of a bank that a save wrote (R166, R170). -/
theorem savedBytes_eq (s : State) (n : Word32) (mark : Byte) :
    (Memory.ofBytes (withCheckWord (s.liveContent n mark))).bytes = imageHeader s.globals n mark ++
      (allSlots.flatMap (fun k => slotImage (s.stream k)) ++ be32 (crc32 (s.liveContent n mark))) := by
  rw [Memory.bytes_ofBytes (by simp [withCheckWord, length_liveContent, contentSize, bankSize]), withCheckWord,
    ← List.append_assoc, ← State.liveContent_eq]

/-- Byte 4 of a bank is the sealed mark (R179). -/
theorem Memory.read_eq_byteAt (m : Memory) {i : Nat} (h : i < bankSize) : m.read i = byteAt m.bytes i := by
  simp [byteAt, Memory.bytes, List.getD_eq_getElem?_getD, h]

theorem Memory.sealedMark_eq (m : Memory) : m.sealedMark = (byteAt m.bytes 4 != 0#8) := by
  rw [Memory.sealedMark, m.read_eq_byteAt (by decide)]

theorem slotBytes_saved (s : State) (n : Word32) (mark : Byte) (k : Fin 64) :
    slotBytes (Memory.ofBytes (withCheckWord (s.liveContent n mark))).bytes k = slotImage (s.stream k) := by
  rw [savedBytes_eq, slotBytes, ← List.drop_drop, List.drop_left' (by rfl),
    take_drop_flatMap (fun k => length_slotImage (s.stream k)) allSlots _ k.val (by rw [length_allSlots]; exact k.isLt),
    getElem_allSlots]

/-- A slot's configuration is read back from the bytes it is written as (R166, R169). -/
theorem imageConfig_slotImage (st : Stream) : imageConfig (slotImage (some st)) = st.cfg := by
  simp [imageConfig, slotImage, entryRecordBytes, entryRecordOfConfig, be16, word16At, byteAt, be16_joined]

/-- A slot is read back from the bytes it is written as: FREE, or its state and configuration with a new running state
(R18, R169). -/
theorem loadSlot_slotImage (locked : Bool) (x : Option Stream) :
    loadSlot locked (slotImage x) = x.map (fun st => newStream st.cfg st.suspended locked) := by
  cases x with
  | none => rfl
  | some st =>
    have state : imageSlotState (slotImage (some st)) = if st.suspended then .suspended else .active := by
      simp [imageSlotState, slotImage, byteAt]
    unfold loadSlot
    rw [state, imageConfig_slotImage]
    cases h : st.suspended <;> simp [h]

/-- What a load reads of the slots that a save wrote (R169, R170). -/
theorem loadSlots_saved (s : State) (n : Word32) (mark : Byte) (k : Fin 64) :
    (loadSlots (Memory.ofBytes (withCheckWord (s.liveContent n mark))))[k] =
      (s.stream k).map (fun st => newStream st.cfg st.suspended (mark != 0#8)) := by
  rw [loadSlots_get, slotBytes_saved, loadSlot_slotImage, Memory.sealedMark_eq, savedBytes_eq]
  rfl

theorem loadGlobals_saved (s : State) (n : Word32) (mark : Byte) :
    loadGlobals (Memory.ofBytes (withCheckWord (s.liveContent n mark))) = s.globals := by
  have limits : #v[s.globals.limits[0], s.globals.limits[1], s.globals.limits[2], s.globals.limits[3]] =
      s.globals.limits := vector4_eta _
  simp only [loadGlobals, savedBytes_eq, imageHeader, be16, be32, word16At, byteAt, List.cons_append, List.nil_append,
    List.getD_cons_succ, List.getD_cons_zero, be16_joined, imageId_setWidth, limits]
  simp

/-- A bank whose content has a byte that is not FFh, and its own check word, is valid (R165, R166). -/
theorem condition_written {content : List Byte} (h : content.length = contentSize) {b : Byte} (hb : b ∈ content)
    (hne : b ≠ erasedByte) : (Memory.ofBytes (withCheckWord content)).condition = .valid := by
  have bytes : (Memory.ofBytes (withCheckWord content)).bytes = withCheckWord content :=
    Memory.bytes_ofBytes (by simp [withCheckWord, h, contentSize, bankSize])
  have written : ¬ (withCheckWord content).all (fun b => b == erasedByte) = true := fun hall =>
    hne (by simpa using List.all_eq_true.1 hall b (List.mem_append_left _ hb))
  have agrees : checkAgrees (withCheckWord content) = true := by
    rw [withCheckWord, checkAgrees_append h]
    exact beq_self_eq_true _
  unfold Memory.condition
  rw [bytes, if_neg written, if_pos agrees]

/-- Settles O52: each part of the bank is read back from the bytes it is written as. -/
theorem saveThenLoad : Obligations.SaveThenLoad := by
  intro s n
  refine ⟨?_, ?_, ?_, loadGlobals_saved s n 0#8, fun k => loadSlots_saved s n 0#8 k⟩
  · refine condition_written (length_liveContent s n 0#8) (b := 0#8) ?_ (by decide)
    rw [State.liveContent_eq]
    simp [imageHeader]
  · rw [Memory.saveCount, savedBytes_eq]
    exact word32At_be32 n
  · rw [Memory.sealedMark_eq, savedBytes_eq]
    rfl

end Sys2Proof.Machine
end


section
/-! SUPPORT. What keeps the laws of the table (R3, R65): operations that keep the entries, resets, and the phases of a save or
seal (R166 to R174). -/

namespace Sys2Proof.Machine

/-! ### Distinct ids -/

/-- Distinct ids are a matter of the configurations the slots hold (R3). -/
theorem DistinctIds.of_cfg {u v : Vector (Option Stream) 64} (h : DistinctIds u)
    (e : ∀ k : Fin 64, v[k].map (fun st => st.cfg) = u[k].map (fun st => st.cfg)) : DistinctIds v := by
  have back : ∀ (k : Fin 64) (b : Stream), v[k] = some b → ∃ a, u[k] = some a ∧ a.cfg = b.cfg := fun k b hb => by
    have := e k
    rw [hb, Option.map_some, eq_comm, Option.map_eq_some_iff] at this
    exact this
  intro i j a b hi hj share
  obtain ⟨a', hi', ea⟩ := back i a hi
  obtain ⟨b', hj', eb⟩ := back j b hj
  exact h i j a' b' hi' hj' (by rw [ea, eb]; exact share)

theorem SameEntryAt.cfg_eq {a b : Option Stream} (h : SameEntryAt a b) :
    b.map (fun st => st.cfg) = a.map (fun st => st.cfg) := by
  cases h with
  | none => rfl
  | some h => exact congrArg some h.cfg

/-- An empty table has distinct ids. -/
theorem distinctIds_empty : DistinctIds (Vector.replicate 64 none) := fun i _ a _ hi _ _ => by
  simp at hi

/-! ### Banks -/

/-- The newest bank is valid (R167). -/
theorem newestBank_valid {b : PerBank Memory} {x : BankId} (h : newestBank b = some x) : (b.get x).condition = .valid := by
  unfold newestBank at h
  split at h
  · next ha hb =>
    split at h <;> cases h
    · exact hb
    · exact ha
  · next ha _ => cases h; exact ha
  · next ha _ => cases h; exact ha
  · next _ hb => cases h; exact hb
  · next _ hb => cases h; exact hb
  all_goals cases h

/-- An image state that says a bank is valid comes from a newest bank (R167, Table 11-1). -/
theorem newestBank_of_image {b : PerBank Memory} (h : imageStateOf b = .valid ∨ imageStateOf b = .sealed) :
    newestBank b ≠ none := fun e => by
  unfold imageStateOf at h
  rw [e] at h
  dsimp only at h
  split at h <;> simp at h

theorem condition_nil : Memory.condition [] = .erased := by
  unfold Memory.condition
  rw [if_pos]
  simp [Memory.bytes, Memory.read]

/-- What a load reads of the slots is a matter of the bank's bytes (R169). -/
theorem loadSlots_of_bytes {m n : Memory} (h : m.bytes = n.bytes) : loadSlots m = loadSlots n := by
  unfold loadSlots
  rw [m.sealedMark_eq, n.sealedMark_eq, h]

/-- The configuration a loaded slot holds does not depend on the sealed mark (R9). -/
theorem loadSlot_cfg (a b : Bool) (l : List Byte) :
    (loadSlot a l).map (fun st => st.cfg) = (loadSlot b l).map (fun st => st.cfg) := by
  unfold loadSlot
  cases imageSlotState l <;> rfl

/-- A loaded stream's credits are its burst (R18). -/
theorem loadSlots_credits {m : Memory} {k : Fin 64} {st : Stream} (h : (loadSlots m)[k] = some st) :
    st.credits = st.cfg.burst := by
  rw [loadSlots_get] at h
  obtain ⟨_, rfl⟩ := loadSlot_new h
  rfl

/-- The slots of a sealed copy are those of its source, byte by byte (R173). -/
theorem slotBytes_sealed (source : Memory) (n : Word32) (k : Fin 64) :
    slotBytes (Memory.ofBytes (withCheckWord (sealedContent source n))).bytes k = slotBytes source.bytes k := by
  have h5 : (be32 n ++ [1#8]).length = 5 := rfl
  have hk := k.isLt
  have hc : (sealedContent source n).length = contentSize := by simp [sealedContent, contentSize, bankSize]
  have content : (sealedContent source n).drop (17 + 17 * k.val) = (source.bytes.take contentSize).drop (17 + 17 * k.val) := by
    rw [sealedContent, show 17 + 17 * k.val = 5 + (12 + 17 * k.val) by omega, ← List.drop_drop, List.drop_left' h5,
      List.drop_drop]
  rw [Memory.bytes_ofBytes (by simp [withCheckWord, hc, contentSize, bankSize]), slotBytes, slotBytes, withCheckWord,
    List.drop_append_of_le_length (by rw [hc]; unfold contentSize; omega), content, List.drop_take,
    List.take_append_of_le_length (by simp [contentSize, bankSize]; omega), List.take_take, Nat.min_eq_left]
  unfold contentSize
  omega

/-- A seal keeps the configurations of its source (R173). -/
theorem loadSlots_sealed {source : Memory} (h : DistinctIds (loadSlots source)) (n : Word32) :
    DistinctIds (loadSlots (Memory.ofBytes (withCheckWord (sealedContent source n)))) :=
  h.of_cfg fun k => by
    rw [loadSlots_get, loadSlots_get, slotBytes_sealed]
    exact loadSlot_cfg _ _ _

/-- A save keeps the configurations of the table (R170). -/
theorem loadSlots_saved_distinct {s : State} (h : DistinctIds s.slots) (n : Word32) (mark : Byte) :
    DistinctIds (loadSlots (Memory.ofBytes (withCheckWord (s.liveContent n mark)))) :=
  h.of_cfg fun k => by
    rw [loadSlots_saved]
    unfold State.stream
    cases s.slots[k] <;> rfl

/-! ### The laws of the table through a step -/

/-- Every valid bank holds a table with distinct ids (R3, R166). -/
def BanksDistinct (b : PerBank Memory) : Prop := ∀ bk, (b.get bk).condition = .valid → DistinctIds (loadSlots (b.get bk))

/-- A bank replaced by one that is not valid, or whose table has distinct ids. -/
theorem BanksDistinct.set {b : PerBank Memory} (h : BanksDistinct b) {bk : BankId} {m : Memory}
    (hm : m.condition = .valid → DistinctIds (loadSlots m)) : BanksDistinct (b.set bk m) := fun bk' hv => by
  by_cases e : bk' = bk
  · subst e
    rw [PerBank.get_set_self] at hv ⊢
    exact hm hv
  · rw [PerBank.get_set_other _ _ e] at hv ⊢
    exact h bk' hv

/-- The laws of the table stand where the entries are kept and what keeps the laws is the same. -/
theorem State.TableSound.of_same {s t : State} (h : s.TableSound) (entries : EntriesKept s t)
    (staging : t.staging = s.staging) (op : t.op = s.op) (banks : t.banks = s.banks) (imageState : t.imageState = s.imageState)
    (phase : t.phase = s.phase) : t.TableSound where
  ids := h.ids.of_cfg fun k => (entries k).cfg_eq
  credits k st hk := by
    obtain ⟨st', hk', same⟩ := (entries k).to_some hk
    exact same.credits (h.credits k st' hk')
  staged := by rw [staging]; exact h.staged
  committing := by rw [op]; exact h.committing
  banks := by rw [banks]; exact h.banks
  job := by rw [op]; exact h.job
  image := by rw [op, banks, imageState, phase]; exact h.image

/-- Every step of the data path keeps the laws of the table (R3, R65). -/
theorem State.TableSound.flow {s t : State} (h : s.TableSound) (f : Flow s t) : t.TableSound :=
  have c := f.step.control
  h.of_same f.entries c.staging c.op c.banks c.imageState c.phase

/-- The laws of the table stand when the staging area is replaced by a sound one. -/
theorem State.TableSound.withStaging {s : State} (h : s.TableSound) {l : List Staged} (hl : StagedSound l) :
    State.TableSound { s with staging := l } := { h with staged := hl }

theorem StagedSound.nil : StagedSound [] := ⟨.nil, fun _ _ _ h => absurd h List.not_mem_nil⟩

/-- A reset loads a table with distinct ids from banks that hold such (R168, R169). -/
theorem State.takeReset_tableSound {s : State} (h : BanksDistinct s.banks) : s.takeReset.TableSound := by
  obtain ⟨q, sl, g, e, _, _, _, hs, _⟩ := s.takeReset_spec
  have slots : DistinctIds sl ∧ ∀ (k : Fin 64) st, sl[k] = some st → st.credits = st.cfg.burst := by
    cases hb : newestBank s.banks with
    | none =>
      rw [hb] at hs
      subst hs
      exact ⟨distinctIds_empty, fun k st hk => by simp at hk⟩
    | some x =>
      rw [hb] at hs
      subst hs
      exact ⟨h x (newestBank_valid hb), fun k st hk => loadSlots_credits hk⟩
  rw [e]
  exact
    { ids := slots.1
      credits := fun k st hk => by rw [slots.2 k st hk]
      staged := .nil
      committing := fun _ _ ho => by cases ho
      banks := h
      job := fun _ hj => by cases hj
      image := fun _ _ hi => by
        dsimp only at hi
        exact newestBank_of_image hi }

/-- The part held or without power keeps nothing but its banks, whose tables have distinct ids (R168, R172). -/
theorem State.cleared_tableSound {s : State} (h : BanksDistinct s.banks) {ph : Phase} (hp : ph = .off ∨ ph = .held)
    (low : Bool) : State.TableSound { s.cleared ph with rstnLow := low } where
  ids := distinctIds_empty
  credits k st hk := by simp [State.stream, State.cleared, State.reset] at hk
  staged := .nil
  committing _ _ ho := by cases ho
  banks := h
  job _ hj := by cases hj
  image hr := by
    have hr : ph = .loading ∨ ph = .running := hr
    rcases hp with rfl | rfl <;> simp at hr

/-- A save or seal cut short leaves banks whose valid ones have distinct ids (R172). -/
theorem State.TableSound.interrupted {s : State} (h : s.TableSound) : BanksDistinct s.interrupt.banks := by
  cases hj : s.op.job? with
  | none => rw [State.interrupt_noJob hj]; exact h.banks
  | some j =>
    obtain ⟨m, n, e, hm⟩ := State.interrupt_job hj
    rw [e]
    refine BanksDistinct.set h.banks fun hv => ?_
    rcases hm with ⟨_, em⟩ | ⟨_, em⟩ <;> rw [em] at hv ⊢
    · exact h.banks _ hv
    · exact absurd hv (cutBank_condition _)

/-- The end of the start-up load keeps the laws of the table (R168). -/
theorem State.endLoad_entries (s : State) : EntriesKept s s.endLoad := by
  obtain ⟨time, fx, _, _, e⟩ := s.stampLoadFault_spec
  have started : EntriesKept s (({ s.stampLoadFault with phase := .running }).mapAllStreams Stream.startTimer) := by
    rw [e]
    exact (EntriesKept.of_slots rfl).trans (State.mapAllStreams_entries _ fun st => .of_eq rfl rfl rfl rfl)
  exact ((started.trans (State.detect_flow _ _).entries).trans (State.detect_flow _ _).entries).trans
    (State.detect_flow _ _).entries

/-- What the end of the start-up load may write: phase, slots, ports, the stamps of the load's faults, and the index of the free
values (R154, R168). -/
theorem State.endLoad_spec (s : State) :
    ∃ sl po time fx, s.endLoad = { s with
      phase := .running, slots := sl, ports := po, faults := s.faults.map (FaultRecord.stampLoad time), freeIx := fx } := by
  obtain ⟨time, fx, _, _, e⟩ := s.stampLoadFault_spec
  unfold State.endLoad
  rw [State.detect_spec, State.detect_spec, State.detect_spec, e]
  exact ⟨_, _, time, fx, rfl⟩

theorem State.TableSound.endLoad {s : State} (h : s.TableSound) (hp : s.phase = .loading) : s.endLoad.TableSound := by
  have entries := s.endLoad_entries
  obtain ⟨sl, po, time, fx, e⟩ := s.endLoad_spec
  rw [e] at entries ⊢
  have running : State.TableSound { s with phase := .running } := { h with image := fun _ => h.image (.inl hp) }
  exact running.of_same entries rfl rfl rfl rfl rfl

/-- The erase phase's end keeps the laws of the table: the target is erased (R171). -/
theorem State.TableSound.eraseEnds {s : State} (h : s.TableSound) {j : BankJob} (hj : s.op.job? = some j)
    (hp : j.phase = .erase) : s.eraseEnds.TableSound := by
  have job := Operation.job?_withJob (j' := { j with phase := .write }) hj
  rw [State.eraseEnds_spec hj hp]
  exact { h with
    committing := fun l m ho => by
      have ho : s.op.withJob { j with phase := .write } = .commit l m := ho
      rw [ho] at job
      cases job
    banks := BanksDistinct.set h.banks fun hv => absurd (condition_nil.symm.trans hv) (by decide)
    job := fun j' hj' => by
      obtain rfl := Option.some.inj (job.symm.trans hj')
      exact h.job j hj
    image := fun _ ho => by cases job.symm.trans ho }

/-- The write phase's end keeps the laws of the table: the target holds what the job has to write (R171). -/
theorem State.TableSound.writeEnds {s : State} (h : s.TableSound) {j : BankJob} (hj : s.op.job? = some j)
    (hp : j.phase = .write) : s.writeEnds.TableSound := by
  have job := Operation.job?_withJob (j' := { j with phase := .readBack }) hj
  rw [State.writeEnds_spec hj hp]
  exact { h with
    committing := fun l m ho => by
      have ho : s.op.withJob { j with phase := .readBack } = .commit l m := ho
      rw [ho] at job
      cases job
    banks := BanksDistinct.set h.banks fun _ => (h.job j hj).2
    job := fun j' hj' => by
      obtain rfl := Option.some.inj (job.symm.trans hj')
      exact h.job j hj
    image := fun _ ho => by cases job.symm.trans ho }

/-- The target after a read back: as the job has it, byte by byte, or bad (R171, R174). -/
theorem State.TableSound.bankAfter {s : State} (h : s.TableSound) {j : BankJob} (hj : s.op.job? = some j) (m : Memory)
    (hv : (s.bankAfter j m).condition = .valid) : DistinctIds (loadSlots (s.bankAfter j m)) := by
  obtain ⟨whole, distinct⟩ := h.job j hj
  unfold State.bankAfter at hv ⊢
  split at hv
  · next ok =>
    rw [if_pos ok]
    unfold readBackOk at ok
    simp only [Bool.and_eq_true, beq_iff_eq] at ok
    rw [loadSlots_of_bytes (ok.1.trans (Memory.bytes_ofBytes whole).symm)]
    exact distinct
  · exact absurd ((failedBank_bad _ _).symm.trans hv) (by decide)

/-- A read back's end keeps the laws of the table (R171, R174). -/
theorem State.TableSound.readBackEnds {s : State} (h : s.TableSound) {j : BankJob} (hj : s.op.job? = some j)
    (misread : List (Nat × Byte)) (notice : Bool → ImageState → NoticeBody) :
    (s.readBackEnds j misread notice).TableSound := by
  obtain ⟨q, o, n, l, g, ls, fx, e⟩ := s.readBackEnds_spec j misread notice
  rw [e]
  exact
    { ids := h.ids
      credits := h.credits
      staged := h.staged
      committing := fun _ _ ho => by cases ho
      banks := BanksDistinct.set h.banks (h.bankAfter hj _)
      job := fun _ hj' => by cases hj'
      image := fun _ _ hi => by
        dsimp only at hi
        exact newestBank_of_image hi }

/-! ### Operations that begin -/

/-- A commit that begins takes the staging area (R141). -/
theorem State.TableSound.beginCommit {s : State} (h : s.TableSound) (ho : s.op = .idle) (m : Word16) :
    (s.beginOperation (.commit s.staging m)).TableSound :=
  { h with
    committing := fun l m' e => by cases e; exact h.staged
    job := fun _ hj => by cases hj
    image := fun hp _ => h.image hp (by rw [ho]; rfl) }

/-- A save or seal that begins has a table with distinct ids to write (R170, R173). -/
theorem State.TableSound.beginJob {s : State} (h : s.TableSound) {op : Operation} {j : BankJob} (hj : op.job? = some j)
    (whole : j.bytes.length = bankSize) (distinct : DistinctIds (loadSlots (Memory.ofBytes j.bytes))) :
    (s.beginOperation op).TableSound :=
  { h with
    committing := fun l m e => by
      have e : op = .commit l m := e
      rw [e] at hj
      cases hj
    job := fun j' hj' => by
      obtain rfl := Option.some.inj (hj.symm.trans hj')
      exact ⟨whole, distinct⟩
    image := fun _ e => by cases hj.symm.trans e }

theorem State.TableSound.beginSave {s : State} (h : s.TableSound) (m : Word16) :
    (s.beginOperation (.save (s.saveJob m))).TableSound :=
  h.beginJob rfl (s.saveJob_length m) (loadSlots_saved_distinct h.ids _ _)

/-- The source of a seal is the newest bank: the one that is not the target (R170, R173). -/
theorem otherBank_targetBank {b : PerBank Memory} {x : BankId} (h : newestBank b = some x) :
    otherBank (targetBank b) = x := by
  unfold targetBank
  rw [h]
  cases x <;> rfl

theorem State.TableSound.beginSeal {s : State} (h : s.TableSound) (hp : s.phase = .running) (ho : s.op = .idle)
    (hi : s.imageState = .valid) (m : Word16) : (s.beginOperation (.seal (s.sealJob m))).TableSound := by
  refine h.beginJob rfl (s.sealJob_length m) (loadSlots_sealed ?_ _)
  obtain ⟨x, hx⟩ := Option.ne_none_iff_exists'.1 (h.image (.inr hp) (by rw [ho]; rfl) (.inl hi))
  rw [otherBank_targetBank hx]
  exact h.banks x (newestBank_valid hx)

end Sys2Proof.Machine
end


section
/-! SUPPORT. Validation of a commit's set, the resulting table, and the staging area (R137 to R144, Table 9-2). -/

namespace Sys2Proof.Machine

variable {s : State} {l : List Staged} {k : Fin 64} {act : Action} {f : Option EntryFields}

/-! ### The resulting table -/

theorem isEntryFor_iff {x : Staged} : isEntryFor k x = true ↔ ∃ act f, x = .entry k act f := by
  cases x with
  | entry j act f => simp [isEntryFor]
  | globals f => simp [isEntryFor]

/-- A slot without a record keeps its configuration (R143). -/
theorem State.resultingConfig_absent (h : ∀ act f, .entry k act f ∉ l) :
    s.resultingConfig l k = (s.stream k).map (fun st => st.cfg) := by
  have hf : l.find? (isEntryFor k) = none := List.find?_eq_none.2 fun x hx he => by
    obtain ⟨act, f, rfl⟩ := isEntryFor_iff.1 he
    exact h act f hx
  rw [State.resultingConfig, hf]

/-- The configuration a record leaves in its slot, where `old` stood (R143). -/
def configAfter (act : Action) (f : Option EntryFields) (old : Option StreamConfig) : Option StreamConfig :=
  if act = .install ∨ act = .modify then f.bind configOf else if act = .retire then none else old

/-- A slot with a record has the configuration that its first one leaves (R143). -/
theorem State.resultingConfig_found (h : l.find? (isEntryFor k) = some (.entry k act f)) :
    s.resultingConfig l k = configAfter act f ((s.stream k).map (fun st => st.cfg)) := by
  rw [State.resultingConfig, h]
  cases act <;> cases f <;> rfl

theorem State.resultingConfig_first {a b : List Staged} (ha : ∀ act f, .entry k act f ∉ a) :
    s.resultingConfig (a ++ [.entry k act f] ++ b) k = configAfter act f ((s.stream k).map (fun st => st.cfg)) := by
  have hf : a.find? (isEntryFor k) = none := List.find?_eq_none.2 fun x hx he => by
    obtain ⟨act, f, rfl⟩ := isEntryFor_iff.1 he
    exact ha act f hx
  refine State.resultingConfig_found ?_
  rw [List.find?_append, List.find?_append, hf]
  simp [isEntryFor]

theorem stagedConfig_of_config (h : act = .install ∨ act = .modify) : stagedConfig (.entry k act f) = f.bind configOf := by
  rcases h with rfl | rfl <;> cases f <;> rfl

theorem stagedConfig_some {fs : EntryFields} {c : StreamConfig} (h : act = .install ∨ act = .modify)
    (hc : configOf fs = some c) : stagedConfig (.entry k act (some fs)) = some c := (stagedConfig_of_config h).trans hc

/-- Another slot of the resulting table holds an id that is tested for (R143). -/
theorem State.takenByOther_iff {same : StreamConfig → Bool} :
    s.takenByOther l k same = true ↔ ∃ j d, j ≠ k ∧ s.resultingConfig l j = some d ∧ same d = true := by
  have all : ∀ j, j ∈ allSlots := fun j => by simp [allSlots]; exact ⟨j.val, j.isLt, by ext; simp⟩
  simp only [State.takenByOther, List.any_eq_true, Bool.and_eq_true, bne_iff_ne]
  constructor
  · rintro ⟨j, _, hj, hs⟩
    cases hd : s.resultingConfig l j with
    | none => simp [hd] at hs
    | some d => exact ⟨j, d, hj, hd, by simpa [hd] using hs⟩
  · rintro ⟨j, d, hj, hd, hs⟩
    exact ⟨j, all j, hj, by rw [hd]; exact hs⟩

/-! ### The tests of a record, in their order (Table 9-2) -/

theorem State.testRecord_slotState (h : slotStateFails (s.stream k) act = true) :
    s.testRecord l (.entry k act f) = some .slotState := by
  rw [State.testRecord, if_pos h]

/-- The lock of its slot refuses the action (R10). -/
def State.lockRefuses (s : State) (k : Fin 64) (act : Action) : Bool :=
  refusedByLock act && (s.stream k).any (fun x => x.locked)

theorem State.testRecord_locked (h : slotStateFails (s.stream k) act = false) (hl : s.lockRefuses k act = true) :
    s.testRecord l (.entry k act f) = some .entryLocked := by
  unfold State.lockRefuses at hl
  rw [State.testRecord, h, if_neg (by simp), if_pos hl]

theorem State.testRecord_noConfig (h : slotStateFails (s.stream k) act = false) (hl : s.lockRefuses k act = false)
    (hc : stagedConfig (.entry k act f) = none) : s.testRecord l (.entry k act f) = none := by
  unfold State.lockRefuses at hl
  simp [State.testRecord, h, hl, hc]

theorem State.testRecord_config {c : StreamConfig} (h : slotStateFails (s.stream k) act = false)
    (hl : s.lockRefuses k act = false) (hc : stagedConfig (.entry k act f) = some c) :
    s.testRecord l (.entry k act f) =
      if (act == .modify) && (s.stream k).any (fun x => x.cfg.fieldId != c.fieldId) then some .fieldIdChanged
      else if s.takenByOther l k (fun x => x.fieldId == c.fieldId) then some .fieldIdTaken
      else if s.takenByOther l k (fun x => x.lineId == c.lineId) then some .lineIdTaken
      else none := by
  unfold State.lockRefuses at hl
  simp [State.testRecord, h, hl, hc]

/-- A record that passes fits its slot's state, and no lock refuses it (R10, R142). -/
theorem State.testRecord_passes (h : s.testRecord l (.entry k act f) = none) :
    slotStateFails (s.stream k) act = false ∧ s.lockRefuses k act = false := by
  have h1 : slotStateFails (s.stream k) act = false := by
    by_contra hne
    rw [Bool.not_eq_false] at hne
    rw [State.testRecord_slotState hne] at h
    cases h
  refine ⟨h1, ?_⟩
  by_contra hne
  rw [Bool.not_eq_false] at hne
  rw [State.testRecord_locked h1 hne] at h
  cases h

/-- The ids a record brings are, when it passes, held by no other slot of the resulting table (R3, R143). -/
theorem State.testRecord_ids {c : StreamConfig} (h : s.testRecord l (.entry k act f) = none)
    (hc : stagedConfig (.entry k act f) = some c) {j : Fin 64} {d : StreamConfig} (hj : j ≠ k)
    (hd : s.resultingConfig l j = some d) : ¬(d.fieldId = c.fieldId ∨ d.lineId = c.lineId) := by
  obtain ⟨hstate, hlock⟩ := State.testRecord_passes h
  rw [State.testRecord_config hstate hlock hc] at h
  split at h
  · cases h
  · split at h
    · cases h
    · next hf =>
      split at h
      · cases h
      · next hl =>
        rintro (e | e)
        · exact hf (State.takenByOther_iff.2 ⟨j, d, hj, hd, by simpa using e⟩)
        · exact hl (State.takenByOther_iff.2 ⟨j, d, hj, hd, by simpa using e⟩)

/-! ### Validation -/

theorem State.validateFrom_applied {i : Nat} {rest : List Staged} :
    s.validateFrom l i rest = .applied ↔ ∀ x ∈ rest, s.testRecord l x = none := by
  induction rest generalizing i with
  | nil => simp [State.validateFrom]
  | cons x rest ih =>
    rw [State.validateFrom, List.forall_mem_cons]
    cases h : s.testRecord l x with
    | none => simpa using ih
    | some reason => simp

/-- A set is applied when every record passes (R142, R145). -/
theorem State.validate_applied : s.validate l = .applied ↔ ∀ x ∈ l, s.testRecord l x = none :=
  State.validateFrom_applied

/-- The first record that fails rejects the set with its index (R142, R144). -/
theorem State.validateFrom_rejected {i : Nat} {a b : List Staged} {x : Staged} {reason : CommitReason}
    (ha : ∀ y ∈ a, s.testRecord l y = none) (hx : s.testRecord l x = some reason) :
    s.validateFrom l i (a ++ x :: b) = .rejected (i + a.length) reason := by
  induction a generalizing i with
  | nil => rw [List.nil_append, State.validateFrom, hx]; rfl
  | cons y a ih =>
    rw [List.forall_mem_cons] at ha
    rw [List.cons_append, State.validateFrom, ha.1]
    exact (ih ha.2).trans (by rw [List.length_cons, Nat.add_assoc, Nat.add_comm 1])

/-! ### Table 9-2 -/

/-- Test 3 to 5 of Table 9-2 on a record whose first two tests pass. -/
theorem State.testRecord_taken {c : StreamConfig} (h : slotStateFails (s.stream k) act = false)
    (hl : s.lockRefuses k act = false) (hc : stagedConfig (.entry k act f) = some c)
    (same : act = .modify → ∀ st, s.stream k = some st → st.cfg.fieldId = c.fieldId) :
    let v := s.testRecord l (.entry k act f)
    let others := fun (same : StreamConfig → Prop) => ∃ j d, j ≠ k ∧ s.resultingConfig l j = some d ∧ same d
    (others (fun d => d.fieldId = c.fieldId) → v = some .fieldIdTaken) ∧
    (¬ others (fun d => d.fieldId = c.fieldId) → others (fun d => d.lineId = c.lineId) → v = some .lineIdTaken) ∧
    (¬ others (fun d => d.fieldId = c.fieldId) → ¬ others (fun d => d.lineId = c.lineId) → v = none) := by
  have changed : ((act == .modify) && (s.stream k).any (fun x => x.cfg.fieldId != c.fieldId)) = false := by
    rw [Bool.and_eq_false_iff]
    by_cases ha : act = .modify
    · right
      cases hk : s.stream k with
      | none => rfl
      | some st => simp [same ha st hk]
    · left
      simp [ha]
  have field := State.takenByOther_iff (s := s) (l := l) (k := k) (same := fun x => x.fieldId == c.fieldId)
  have line := State.takenByOther_iff (s := s) (l := l) (k := k) (same := fun x => x.lineId == c.lineId)
  simp only [beq_iff_eq] at field line
  dsimp only
  rw [State.testRecord_config h hl hc, changed, if_neg (by simp), ← field, ← line]
  refine ⟨fun hf => if_pos hf, fun hf hl => ?_, fun hf hl => ?_⟩
  · rw [if_neg hf, if_pos hl]
  · rw [if_neg hf, if_neg hl]

/-- Settles O47: the tests in their order, then the resulting table, then the first failure by index. -/
theorem validation : Obligations.Validation := by
  refine ⟨fun s l k act f => ⟨?_, ?_, ?_, ?_, ?_, ?_, ?_⟩, fun s l j => ⟨State.resultingConfig_absent, ?_⟩,
    fun s l => ⟨fun f => rfl, State.validate_applied.2, ?_⟩⟩
  · rintro rfl h
    exact State.testRecord_slotState (Option.isSome_iff_ne_none.2 h)
  · intro ha h
    refine State.testRecord_slotState ?_
    rw [h]
    cases act <;> first | rfl | contradiction
  · rintro st h rfl hs
    exact State.testRecord_slotState (by simp [h, slotStateFails, hs])
  · intro st h hl ha
    refine State.testRecord_locked ?_ ?_ <;> rcases ha with rfl | rfl | rfl | ⟨rfl, hs⟩ <;>
      simp_all [slotStateFails, State.lockRefuses, refusedByLock]
  · intro st h ha
    refine State.testRecord_noConfig ?_ ?_ ?_ <;> rcases ha with rfl | ⟨hl, rfl | rfl | ⟨rfl, hs⟩⟩ <;>
      simp_all [slotStateFails, State.lockRefuses, refusedByLock, stagedConfig]
  · rintro fs c st rfl rfl hc h hl hne
    rw [State.testRecord_config (c := c) (by simp [h, slotStateFails]) (by simp [h, State.lockRefuses, hl])
      (stagedConfig_some (.inr rfl) hc), if_pos (by simpa [h] using hne)]
  · rintro fs c ha rfl hc
    rcases ha with ⟨rfl, h⟩ | ⟨rfl, st, h, hl, hid⟩
    · exact State.testRecord_taken (by simp [h, slotStateFails]) (by simp [State.lockRefuses, refusedByLock])
        (stagedConfig_some (.inl rfl) hc) (fun e => by cases e)
    · refine State.testRecord_taken (by simp [h, slotStateFails]) (by simp [h, State.lockRefuses, hl])
        (stagedConfig_some (.inr rfl) hc) fun _ st' h' => ?_
      obtain rfl := Option.some.inj (h.symm.trans h')
      exact hid
  · rintro a act f b rfl ha
    exact State.resultingConfig_first ha
  · rintro a x b reason rfl ha hx
    rw [List.append_assoc, List.singleton_append] at ha hx ⊢
    exact (State.validateFrom_rejected ha hx).trans (by rw [Nat.zero_add])

end Sys2Proof.Machine
end


section
/-! SUPPORT. The effects of a commit's records (Chapter 9): what a discard leaves of a slot, what each action makes of it, and the
laws of the table through an applied commit (R3, R65, R145 to R150). -/

namespace Sys2Proof.Machine

/-! ### Counters of a stream -/

/-- The per-stream counters in report order (Table 10-2). -/
def streamCtrs : List StreamCtr :=
  [.forwarded, .good .f0, .good .f1, .damaged .f0, .damaged .f1, .duplicate, .lateTwin, .stale, .leap, .resync, .replaced,
    .merged, .trimmed, .marked, .damageDropped, .discarded, .policed, .classFull, .lineDown, .formatMismatch, .suspendedDrop]

theorem streamCtrs_idx (c : StreamCtr) : streamCtrs[(streamCtrIdx c).val]? = some c := by
  cases c with
  | good p => cases p <;> rfl
  | damaged p => cases p <;> rfl
  | _ => rfl

/-- Every per-stream counter has a place of its own (Table 10-2). -/
theorem streamCtrIdx_injective : Function.Injective streamCtrIdx := fun a b h => by
  have := streamCtrs_idx a
  rw [h, streamCtrs_idx b] at this
  exact (Option.some.inj this).symm

@[simp] theorem Stream.counter_bump_same (c : StreamCtr) (st : Stream) :
    (st.bump c).counter c = satInc 32 (st.counter c) := bumpAt_same _ _

theorem Stream.counter_bump_other {c d : StreamCtr} (h : d ≠ c) (st : Stream) : (st.bump c).counter d = st.counter d :=
  bumpAt_other _ fun e => h (streamCtrIdx_injective e).symm

/-- The stream with a counter incremented `n` times. -/
def Stream.bumpTimes (c : StreamCtr) (n : Nat) (st : Stream) : Stream := (Stream.bump c)^[n] st

theorem Stream.bumpTimes_succ (c : StreamCtr) (n : Nat) (st : Stream) :
    st.bumpTimes c (n + 1) = (st.bump c).bumpTimes c n := Function.iterate_succ_apply _ _ _

/-- Incrementing a counter writes the counters alone. -/
theorem Stream.bumpTimes_eq (c : StreamCtr) (n : Nat) (st : Stream) :
    st.bumpTimes c n = { st with counters := (st.bumpTimes c n).counters } := by
  induction n generalizing st with
  | zero => rfl
  | succ n ih => rw [Stream.bumpTimes_succ, ih]; rfl

theorem Stream.counter_bumpTimes_same (c : StreamCtr) (n : Nat) (st : Stream) :
    (st.bumpTimes c n).counter c = (satInc 32)^[n] (st.counter c) := by
  induction n generalizing st with
  | zero => rfl
  | succ n ih => rw [Stream.bumpTimes_succ, ih, Stream.counter_bump_same, Function.iterate_succ_apply]

theorem Stream.counter_bumpTimes_other {c d : StreamCtr} (h : d ≠ c) (n : Nat) (st : Stream) :
    (st.bumpTimes c n).counter d = st.counter d := by
  induction n generalizing st with
  | zero => rfl
  | succ n ih => rw [Stream.bumpTimes_succ, ih, Stream.counter_bump_other h]

/-! ### Discards -/

/-- The repair slots of a list that hold a copy a test picks. -/
def State.holding (s : State) (l : List (Fin 8)) (test : Held → Bool) : List (Fin 8) :=
  l.filter (fun r => (s.held r).any test)

/-- The cells of the copies that repair slots of a list hold. -/
def State.heldCells (s : State) (l : List (Fin 8)) : List CellId :=
  l.flatMap (fun r => (s.held r).toList.flatMap (fun h => h.frame.cells))

/-- Discarding in turn the repair slots of a list that hold a copy the test picks (R55, R56). -/
def State.discardSome (s : State) (l : List (Fin 8)) (test : Held → Bool) : State :=
  l.foldl (fun s r => if (s.held r).any test then s.discardHeld r else s) s

theorem State.discardStream_eq (s : State) (k : Fin 64) :
    s.discardStream k = s.discardSome allRepair (fun h => h.slot == k) := rfl

theorem State.discardAll_eq (s : State) : s.discardAll = s.discardSome allRepair (fun _ => true) := by
  unfold State.discardAll State.discardSome
  congr 1
  funext s r
  unfold State.discardHeld
  cases s.held r <;> rfl

/-- A discarded copy: its cells return, its stream counts DISCARDED, its repair slot is FREE (R55). -/
theorem State.discardHeld_some {s : State} {r : Fin 8} {h : Held} (e : s.held r = some h) :
    s.discardHeld r = ((s.setHeld r none).returnCells h.frame.cells).bumpStream h.slot .discarded := by
  rw [State.discardHeld, e]
  rfl

theorem State.holding_congr {s t : State} {l : List (Fin 8)} (h : ∀ r ∈ l, t.held r = s.held r) (test : Held → Bool) :
    t.holding l test = s.holding l test :=
  List.filter_congr fun r hr => by rw [h r hr]

theorem State.holding_cons_neg {s : State} {r : Fin 8} {test : Held → Bool} (h : ¬ (s.held r).any test = true)
    (l : List (Fin 8)) : s.holding (r :: l) test = s.holding l test := List.filter_cons_of_neg h

theorem State.holding_cons_pos {s : State} {r : Fin 8} {test : Held → Bool} (h : (s.held r).any test = true)
    (l : List (Fin 8)) : s.holding (r :: l) test = r :: s.holding l test := List.filter_cons_of_pos h

/-- What discards leave: each stream has DISCARDED counted once for each of its copies that the test picks, and the cells of the
copies picked return in order (R55, R103). -/
theorem State.discardSome_spec (test : Held → Bool) {l : List (Fin 8)} (hl : l.Nodup) (s : State) :
    (∀ k, (s.discardSome l test).stream k = (s.stream k).map
      (Stream.bumpTimes .discarded (s.holding l (fun h => test h && h.slot == k)).length)) ∧
    (s.discardSome l test).free = s.free ++ s.heldCells (s.holding l test) := by
  induction l generalizing s with
  | nil => exact ⟨fun k => by cases h : s.stream k <;> simp [State.discardSome, State.holding, Stream.bumpTimes, h],
      (List.append_nil _).symm⟩
  | cons r l ih =>
    obtain ⟨hr, hl⟩ := List.nodup_cons.1 hl
    have rest : ∀ {t : State}, (∀ q, q ≠ r → t.held q = s.held q) → ∀ q ∈ l, t.held q = s.held q := fun h q hq =>
      h q fun e => hr (e ▸ hq)
    by_cases hp : (s.held r).any test = true
    · obtain ⟨h, hh, ht⟩ := (Option.any_eq_true _ _).1 hp
      have same := rest (t := s.discardHeld r) fun q hq => by rw [State.held_discardHeld, if_neg hq]
      obtain ⟨streams, free⟩ := ih hl (s.discardHeld r)
      have head : s.discardSome (r :: l) test = (s.discardHeld r).discardSome l test := by
        rw [State.discardSome, List.foldl_cons, if_pos hp]
        rfl
      rw [head]
      refine ⟨fun k => ?_, ?_⟩
      · rw [streams, State.holding_congr same, State.discardHeld_some hh]
        by_cases hk : h.slot = k
        · subst hk
          rw [State.bumpStream_eq, State.stream_setSlot_self, Option.map_map, State.holding_cons_pos (by simp [hh, ht])]
          rfl
        · rw [State.bumpStream_eq, State.stream_setSlot_other _ _ (Ne.symm hk)]
          simp [State.holding, hh, hk]
      · rw [free, State.holding_congr same, State.discardHeld_some hh]
        have cells : (s.discardHeld r).heldCells (s.holding l test) = s.heldCells (s.holding l test) :=
          List.flatMap_congr fun q hq => by rw [same q (List.mem_of_mem_filter hq)]
        rw [State.discardHeld_some hh] at cells
        rw [cells]
        simp [State.holding, State.heldCells, hh, ht, State.returnCells, State.setHeld]
    · obtain ⟨streams, free⟩ := ih hl s
      have head : s.discardSome (r :: l) test = s.discardSome l test := by
        rw [State.discardSome, List.foldl_cons, if_neg hp]
        rfl
      rw [head]
      refine ⟨fun k => ?_, ?_⟩
      · rw [streams, State.holding_cons_neg fun he => ?_]
        obtain ⟨h, hh, ht⟩ := (Option.any_eq_true _ _).1 he
        exact hp ((Option.any_eq_true _ _).2 ⟨h, hh, by simp_all⟩)
      · rw [free, State.holding_cons_neg hp]

/-- Discards write the slots, the repair unit and the pool alone (R55). -/
theorem State.discardSome_frame (s : State) (l : List (Fin 8)) (test : Held → Bool) :
    ∃ sl rp fr, s.discardSome l test = { s with slots := sl, repair := rp, free := fr } := by
  induction l generalizing s with
  | nil => exact ⟨_, _, _, rfl⟩
  | cons r l ih =>
    rw [State.discardSome, List.foldl_cons]
    split
    · obtain ⟨sl, rp, fr, e⟩ := discardHeld_foldl [r] s
      obtain ⟨sl', rp', fr', e'⟩ := ih (s.discardHeld r)
      have e : s.discardHeld r = { s with slots := sl, repair := rp, free := fr } := e
      rw [e] at e' ⊢
      exact ⟨sl', rp', fr', e'⟩
    · exact ih s

theorem allRepair_nodup : allRepair.Nodup := by decide

end Sys2Proof.Machine
end


section
/-! SUPPORT. The effect of each record of an applied commit, and O48 (R145 to R150). -/

namespace Sys2Proof.Machine

variable {s : State} {k : Fin 64} {act : Action} {f : Option EntryFields}

/-! ### What a record's discards leave -/

/-- RETIRE, SUSPEND and a MODIFY of the partition size discard the slot's held copies (R55). -/
theorem discardsHeld_iff {old : Option Stream} : discardsHeld act f old = true ↔
    act = .retire ∨ act = .suspend ∨ (act = .modify ∧ ∃ fs c st, f = some fs ∧ configOf fs = some c ∧ old = some st ∧
      st.cfg.size ≠ c.size) := by
  cases act with
  | modify =>
    cases f with
    | none => simp [discardsHeld]
    | some fs => simp [discardsHeld, Option.any_eq_true]
  | _ => simp [discardsHeld]

/-- How many held copies of its slot a record discards (R55). -/
def State.discardCount (s : State) (k : Fin 64) (act : Action) (f : Option EntryFields) : Nat :=
  if discardsHeld act f (s.stream k) then (s.holding allRepair (fun h => h.slot == k)).length else 0

theorem State.discardStream_stream (s : State) (k j : Fin 64) : (s.discardStream k).stream j =
    if j = k then (s.stream k).map (Stream.bumpTimes .discarded (s.holding allRepair (fun h => h.slot == k)).length)
    else s.stream j := by
  rw [State.discardStream_eq, (State.discardSome_spec _ allRepair_nodup s).1]
  split
  · next e => subst e; simp only [Bool.and_self]
  · next hj =>
    have none : s.holding allRepair (fun h => h.slot == k && h.slot == j) = [] :=
      List.filter_eq_nil_iff.2 fun r _ he => by
        obtain ⟨h, _, ht⟩ := (Option.any_eq_true _ _).1 he
        simp only [Bool.and_eq_true, beq_iff_eq] at ht
        exact hj (ht.2.symm.trans ht.1)
    rw [none]
    exact Option.map_id'

/-- The record's slot after its action: made of what the discards leave of it (R146 to R149). -/
theorem State.applyRecord_stream (s : State) (k : Fin 64) (act : Action) (f : Option EntryFields) :
    (s.applyRecord (.entry k act f)).stream k =
      slotAfter act f ((s.stream k).map (Stream.bumpTimes .discarded (s.discardCount k act f))) := by
  by_cases h : discardsHeld act f (s.stream k) = true
  · simp only [State.applyRecord, State.discardCount, h, if_true, State.stream_setSlot_self, State.discardStream_stream]
  · simp only [State.applyRecord, State.discardCount, h, State.stream_setSlot_self]
    congr 1
    exact Option.map_id'.symm

/-- A slot record changes no other slot (R146 to R149). -/
theorem State.applyRecord_other {j : Fin 64} (h : j ≠ k) :
    (s.applyRecord (.entry k act f)).stream j = s.stream j := by
  unfold State.applyRecord
  dsimp only
  rw [State.stream_setSlot_other _ _ h]
  split
  · rw [State.discardStream_stream, if_neg h]
  · rfl

/-- A slot record writes the slots, the repair unit and the pool alone (R55, R146 to R149). -/
theorem State.applyRecord_frame (s : State) (k : Fin 64) (act : Action) (f : Option EntryFields) :
    ∃ sl rp fr, s.applyRecord (.entry k act f) = { s with slots := sl, repair := rp, free := fr } := by
  by_cases h : discardsHeld act f (s.stream k) = true
  · obtain ⟨sl, rp, fr, e⟩ := s.discardSome_frame allRepair (fun h => h.slot == k)
    simp only [State.applyRecord, h, if_true, State.discardStream_eq, e]
    exact ⟨_, _, _, rfl⟩
  · simp only [State.applyRecord, h]
    exact ⟨_, _, _, rfl⟩

theorem State.applyRecord_keeps (h : ¬ discardsHeld act f (s.stream k) = true) :
    (s.applyRecord (.entry k act f)).repair = s.repair ∧ (s.applyRecord (.entry k act f)).free = s.free := by
  simp only [State.applyRecord, h]
  exact ⟨rfl, rfl⟩

theorem State.applyRecord_discards (h : discardsHeld act f (s.stream k) = true) :
    (∀ q, (s.applyRecord (.entry k act f)).held q =
      if (s.held q).any (fun h => h.slot == k) = true then none else s.held q) ∧
    (s.applyRecord (.entry k act f)).free = s.free ++ s.heldCells (s.holding allRepair (fun h => h.slot == k)) := by
  simp only [State.applyRecord, h, if_true]
  refine ⟨fun q => ?_, ?_⟩
  · rw [State.held_setSlot, State.held_discardStream]
  · rw [State.setSlot_free, State.discardStream_eq, (State.discardSome_spec _ allRepair_nodup s).2]

/-! ### What each action makes of the slot -/

/-- The interval timer that an INSTALL, a RESUME or a reset starts (R66, R68). -/
theorem startedTimer_eq (suspended : Bool) (c : StreamConfig) :
    startedTimer suspended c = if suspended = true ∨ c.burst = 0#8 then none else some c.interval := by
  simp only [startedTimer, Bool.or_eq_true, beq_iff_eq]

theorem Stream.suspendedNow_path (st : Stream) (p : FPort) : st.suspendedNow.path p = frozenPath (st.path p) := by
  cases p <;> rfl

theorem Stream.bumpTimes_path (c : StreamCtr) (n : Nat) (st : Stream) (p : FPort) :
    (st.bumpTimes c n).path p = st.path p := by
  rw [Stream.bumpTimes_eq]
  rfl

theorem State.applyRecord_lock {st : Stream} (h : s.stream k = some st) :
    (s.applyRecord (.entry k .lock f)).stream k = some { st with locked := true } := by
  rw [State.applyRecord_stream, h]
  rfl

theorem State.applyRecord_resume {st : Stream} (h : s.stream k = some st) :
    (s.applyRecord (.entry k .resume f)).stream k = some st.resumed := by
  rw [State.applyRecord_stream, h]
  rfl

theorem State.applyRecord_suspend {st : Stream} (h : s.stream k = some st) :
    (s.applyRecord (.entry k .suspend f)).stream k =
      some (st.bumpTimes .discarded (s.holding allRepair (fun h => h.slot == k)).length).suspendedNow := by
  rw [State.applyRecord_stream, h]
  rfl

theorem State.applyRecord_modify {st : Stream} {fs : EntryFields} {c : StreamConfig} (h : s.stream k = some st)
    (hc : configOf fs = some c) :
    (s.applyRecord (.entry k .modify (some fs))).stream k = some ((st.bumpTimes .discarded
      (if st.cfg.size = c.size then 0 else (s.holding allRepair (fun h => h.slot == k)).length)).modified c) := by
  have count : s.discardCount k .modify (some fs) =
      if st.cfg.size = c.size then 0 else (s.holding allRepair (fun h => h.slot == k)).length := by
    by_cases hs : st.cfg.size = c.size <;> simp [State.discardCount, discardsHeld, h, hc, hs]
  rw [State.applyRecord_stream, h, count]
  simp [slotAfter, hc]

theorem State.applyRecord_install {fs : EntryFields} {c : StreamConfig} (hc : configOf fs = some c) :
    (s.applyRecord (.entry k .install (some fs))).stream k =
      some (installedStream c ((initialSuspended fs).getD false)) := by
  rw [State.applyRecord_stream]
  simp [slotAfter, hc]

/-- The stream after a MODIFY, in the terms of Table 4-3 (R147). -/
theorem Stream.modified_eq (c : StreamConfig) (st : Stream) : st.modified c = { st with
    cfg := c
    credits := if st.credits.toNat ≤ c.burst.toNat then st.credits else c.burst
    intervalTimer := if st.suspended = true ∨ c.burst = 0#8 then none
      else if st.cfg.burst = 0#8 then some c.interval else st.intervalTimer } := by
  simp only [Stream.modified, minByte, timerAfterModify, Bool.or_eq_true, beq_iff_eq]

/-! ### The commit end -/

/-- An APPLIED commit end, in full: the records in order, the generation, the staging area, the lease timer under the timeout then
in force (R12, R145, R124). -/
theorem State.applyCommit_eq (s : State) (l : List Staged) :
    s.applyCommit l = { l.foldl State.applyRecord s with
      generation := nextGeneration s.generation, staging := [], op := .idle
      agent := { s.agent with lease := s.agent.lease.map (fun x =>
        ⟨x.holder, some (l.foldl State.applyRecord s).globals.leaseTimeout⟩) } } := by
  have h := s.applyRecords_applies l
  unfold State.applyCommit
  generalize l.foldl State.applyRecord s = u at h
  rw [← h.agent, ← h.generation]
  rfl

theorem commitEnd_settles {s : State} {l : List Staged} {m : Word16} (hp : s.phase = .running) (ho : s.op = .commit l m) :
    Settles .commitEnd s (s.endCommit l m) := by
  simp only [Settles, exec, execCommitEnd, whenRunning_running hp, State.commitEnds, ho]

/-- Settles O48: the commit end as a whole, then the effect of a record by its action. -/
theorem appliedCommitEnd : Obligations.AppliedCommitEnd := by
  refine ⟨fun s l m hp ho hv => ?_, fun s f => rfl, fun s k act f => ?_⟩
  · have e : s.endCommit l m = (s.applyCommit l).raiseNotice (.commitDone .applied (s.applyCommit l).generation l.length m) := by
      simp only [State.endCommit, hv]
    have h := commitEnd_settles hp ho
    rw [e, s.applyCommit_eq l] at h
    exact h
  · dsimp only
    rw [← discardsHeld_iff]
    refine ⟨?_, fun j => State.applyRecord_other, State.applyRecord_keeps, State.applyRecord_discards, ?_, ?_, ?_⟩
    · obtain ⟨sl, rp, fr, e⟩ := s.applyRecord_frame k act f
      rw [e]
    · rintro fs c rfl rfl hc
      rw [State.applyRecord_install hc]
      exact congrArg some (by rw [installedStream, Stream.startTimer, startedTimer_eq]; rfl)
    · rintro rfl
      rw [State.applyRecord_stream]
      rfl
    · intro st hst
      refine ⟨?_, ?_, ?_, ?_⟩
      · rintro rfl
        exact State.applyRecord_lock hst
      · rintro rfl
        rw [State.applyRecord_resume hst, Stream.resumed, startedTimer_eq]
        simp [Stream.emptyHistory, freshPaths]
      · rintro rfl
        refine ⟨(st.bumpTimes .discarded (s.holding allRepair (fun h => h.slot == k)).length).suspendedNow, ?_, ?_,
          Stream.counter_bumpTimes_same _ _ _, fun c hc => Stream.counter_bumpTimes_other hc _ _⟩
        · rw [State.applyRecord_suspend hst, Stream.bumpTimes_eq]
          rfl
        · intro p
          rw [Stream.suspendedNow_path, Stream.bumpTimes_path]
          cases st.path p <;> rfl
      · rintro fs c rfl rfl hc
        refine ⟨st.bumpTimes .discarded
          (if st.cfg.size = c.size then 0 else (s.holding allRepair (fun h => h.slot == k)).length), ?_, ?_, ?_⟩
        · rw [State.applyRecord_modify hst hc, Stream.bumpTimes_eq, Stream.modified_eq]
        · rw [Stream.counter_bumpTimes_same]
          split <;> rfl
        · exact fun c' hc' => Stream.counter_bumpTimes_other hc' _ _

end Sys2Proof.Machine
end


section
/-! SUPPORT. The staging area as staging makes it, and the laws of the table and of the lock through a commit (R3, R10, R65, R137,
R138, R142 to R150). -/

namespace Sys2Proof.Machine

variable {s : State} {l : List Staged} {k : Fin 64} {act : Action} {f : Option EntryFields}

/-! ### Staging -/

/-- The slot a record stands for; none for the globals record (R137). -/
def Staged.target : Staged → Option (Fin 64)
  | .entry k _ _ => some k
  | .globals _ => none

theorem sameRecordTarget_iff {x y : Staged} : sameRecordTarget x y = true ↔ x.target = y.target := by
  cases x <;> cases y <;> simp [sameRecordTarget, Staged.target]

theorem sameRecordTarget_eq_false {x y : Staged} : sameRecordTarget x y = false ↔ x.target ≠ y.target := by
  rw [← Bool.not_eq_true, Ne, sameRecordTarget_iff]

/-- Every record stands for a target of its own (R137). -/
theorem pairwise_iff_nodup {l : List Staged} :
    l.Pairwise (fun x y => sameRecordTarget x y = false) ↔ (l.map Staged.target).Nodup := by
  rw [List.Nodup, List.pairwise_map]
  simp only [sameRecordTarget_eq_false]

/-- A record of its action's form (R138). -/
def Staged.Sound : Staged → Prop
  | .entry _ act f => entryOk act f = true
  | .globals _ => True

theorem stagedSound_iff {l : List Staged} : StagedSound l ↔ (l.map Staged.target).Nodup ∧ ∀ x ∈ l, x.Sound := by
  constructor
  · intro h
    refine ⟨pairwise_iff_nodup.1 h.once, fun x hx => ?_⟩
    cases x with
    | entry k act f => exact h.form k act f hx
    | globals f => trivial
  · rintro ⟨h1, h2⟩
    exact ⟨pairwise_iff_nodup.2 h1, fun k act f hx => h2 _ hx⟩

/-- Staging a record of its action's form keeps the area sound (R137 to R139). -/
theorem StagedSound.stageInto {area out : List Staged} {r : Staged} (h : StagedSound area) (hr : r.Sound)
    (e : stageInto area r = some out) : StagedSound out := by
  rw [stagedSound_iff] at h ⊢
  obtain ⟨nodup, sound⟩ := h
  unfold Machine.stageInto at e
  split at e
  · cases e
    have targets : (area.map (fun x => if sameRecordTarget r x then r else x)).map Staged.target =
        area.map Staged.target := by
      rw [List.map_map]
      refine List.map_congr_left fun x _ => ?_
      by_cases ht : sameRecordTarget r x = true
      · simp only [Function.comp, ht, if_true]
        exact sameRecordTarget_iff.1 ht
      · simp only [Function.comp, ht]
        rfl
    refine ⟨by rw [targets]; exact nodup, fun y hy => ?_⟩
    obtain ⟨x, hx, rfl⟩ := List.mem_map.1 hy
    split
    · exact hr
    · exact sound x hx
  · next hany =>
    split at e
    · cases e
      refine ⟨?_, fun x hx => ?_⟩
      · rw [List.map_append, List.map_singleton, ← List.concat_eq_append]
        refine List.Nodup.concat (fun hm => hany ?_) nodup
        obtain ⟨x, hx, ht⟩ := List.mem_map.1 hm
        exact List.any_eq_true.2 ⟨x, hx, sameRecordTarget_iff.2 ht.symm⟩
      · rcases List.mem_append.1 hx with hx | hx
        · exact sound x hx
        · rw [List.mem_singleton.1 hx]
          exact hr
    · cases e

/-! ### The entry of a slot through a set of records -/

/-- A record that is not for a slot keeps its entry. -/
theorem State.applyRecord_entry {r : Staged} (h : ∀ act f, r ≠ .entry k act f) :
    SameEntryAt (s.stream k) ((s.applyRecord r).stream k) := by
  cases r with
  | globals f => exact .refl _
  | entry j act f =>
    rw [State.applyRecord_other fun e => h act f (by rw [e])]
    exact .refl _

/-- A set without a record for a slot keeps its entry. -/
theorem State.applyRecords_entry (h : ∀ act f, .entry k act f ∉ l) (s : State) :
    SameEntryAt (s.stream k) ((l.foldl State.applyRecord s).stream k) := by
  induction l generalizing s with
  | nil => exact .refl _
  | cons r l ih =>
    refine (State.applyRecord_entry fun act f e => ?_).trans (ih (fun act f hm => h act f (List.mem_cons_of_mem _ hm)) _)
    exact h act f (e ▸ List.mem_cons_self)

/-- Discards keep the entry of the slot. -/
theorem Stream.bumpTimes_entry (c : StreamCtr) (n : Nat) (st : Stream) : SameEntry st (st.bumpTimes c n) := by
  rw [Stream.bumpTimes_eq]
  exact .of_eq rfl rfl rfl rfl

/-- The one record for a slot decides its entry: that of its action, done on the slot's present entry (R137, R145). -/
theorem State.applyRecords_own (h : StagedSound l) (hm : .entry k act f ∈ l) (s : State) :
    ∃ x, SameEntryAt (s.stream k) x ∧ SameEntryAt (slotAfter act f x) ((l.foldl State.applyRecord s).stream k) := by
  obtain ⟨a, b, rfl⟩ := List.append_of_mem hm
  have nodup := (stagedSound_iff.1 h).1
  rw [List.map_append, List.map_cons, List.nodup_append, List.nodup_cons] at nodup
  obtain ⟨_, ⟨hb, _⟩, hab⟩ := nodup
  have notA : ∀ act' f', .entry k act' f' ∉ a := fun act' f' hm' =>
    hab _ (List.mem_map_of_mem hm') _ List.mem_cons_self rfl
  have notB : ∀ act' f', .entry k act' f' ∉ b := fun act' f' hm' => hb (List.mem_map.2 ⟨_, hm', rfl⟩)
  rw [List.foldl_append, List.foldl_cons]
  have before := State.applyRecords_entry notA s
  have after := State.applyRecords_entry notB ((a.foldl State.applyRecord s).applyRecord (.entry k act f))
  rw [State.applyRecord_stream] at after
  exact ⟨_, before.trans (.map fun st _ => st.bumpTimes_entry _ _), after⟩

/-- The configuration a slot has after an action that fits its state and comes in its form (R146 to R149). -/
theorem slotAfter_cfg {x : Option Stream} (hf : entryOk act f = true) (hs : slotStateFails x act = false) :
    (slotAfter act f x).map (fun st => st.cfg) = configAfter act f (x.map (fun st => st.cfg)) := by
  have some_config : ∀ {g}, (configOf g).isSome = true → ∃ c, configOf g = some c := Option.isSome_iff_exists.1
  cases act with
  | install =>
    cases f with
    | none => cases hf
    | some g =>
      simp only [entryOk, Bool.and_eq_true] at hf
      obtain ⟨c, hc⟩ := some_config hf.1
      simp [slotAfter, configAfter, hc, installedStream, Stream.startTimer, newStream]
  | modify =>
    cases f with
    | none => cases hf
    | some g =>
      simp only [entryOk, Bool.and_eq_true] at hf
      obtain ⟨c, hc⟩ := some_config hf.1
      cases x with
      | none => cases hs
      | some st => simp [slotAfter, configAfter, hc, Stream.modified]
  | retire => rfl
  | suspend => cases x <;> rfl
  | resume => cases x <;> rfl
  | lock => cases x <;> rfl

/-- Whether an action fits a slot's state is a matter of its entry (Table 1-7). -/
theorem SameEntryAt.slotStateFails {a b : Option Stream} (h : SameEntryAt a b) (act : Action) :
    slotStateFails b act = slotStateFails a act := by
  cases h with
  | none => rfl
  | some h => cases act <;> simp [Machine.slotStateFails, h.suspended]

/-- The table that a set which passes validation makes is the resulting table it was validated against (R143, R145). -/
theorem State.applyRecords_cfg (h : StagedSound l) (hv : s.validate l = .applied) (k : Fin 64) :
    ((l.foldl State.applyRecord s).stream k).map (fun st => st.cfg) = s.resultingConfig l k := by
  by_cases hm : ∃ act f, .entry k act f ∈ l
  · obtain ⟨act, f, hm⟩ := hm
    obtain ⟨x, hx, hr⟩ := State.applyRecords_own h hm s
    have fits := (State.testRecord_passes (State.validate_applied.1 hv _ hm)).1
    rw [← hx.slotStateFails] at fits
    have first : l.find? (isEntryFor k) = some (.entry k act f) := by
      cases hf : l.find? (isEntryFor k) with
      | none => exact absurd (List.find?_eq_none.1 hf _ hm) (by simp [isEntryFor])
      | some y =>
        obtain ⟨act', f', rfl⟩ := isEntryFor_iff.1 (List.find?_some hf)
        have := List.inj_on_of_nodup_map (stagedSound_iff.1 h).1 (List.mem_of_find?_eq_some hf) hm rfl
        rw [this]
    rw [hr.cfg_eq, slotAfter_cfg (h.form k act f hm) fits, hx.cfg_eq, State.resultingConfig_found first]
  · have hm : ∀ act f, .entry k act f ∉ l := fun act f h => hm ⟨act, f, h⟩
    rw [(State.applyRecords_entry hm s).cfg_eq, State.resultingConfig_absent hm]

/-- A slot of the resulting table has its present configuration, or one that a record of the set brings (R143). -/
theorem State.resultingConfig_cases {c : StreamConfig} (hc : s.resultingConfig l k = some c) :
    (s.stream k).map (fun st => st.cfg) = some c ∨
      ∃ act f, .entry k act f ∈ l ∧ stagedConfig (.entry k act f) = some c := by
  cases hf : l.find? (isEntryFor k) with
  | none =>
    rw [State.resultingConfig, hf] at hc
    exact .inl hc
  | some y =>
    obtain ⟨act, f, rfl⟩ := isEntryFor_iff.1 (List.find?_some hf)
    rw [State.resultingConfig_found hf, configAfter] at hc
    split at hc
    · next ha => exact .inr ⟨act, f, List.mem_of_find?_eq_some hf, (stagedConfig_of_config ha).trans hc⟩
    · split at hc
      · cases hc
      · exact .inl hc

/-- A set that passes validation makes a table with distinct ids (R3, R143). -/
theorem State.applyRecords_distinct (hs : DistinctIds s.slots) (h : StagedSound l) (hv : s.validate l = .applied) :
    DistinctIds (l.foldl State.applyRecord s).slots := by
  intro i j a b hi hj share
  have cfg : ∀ (k : Fin 64) (st : Stream), (l.foldl State.applyRecord s).slots[k] = some st →
      s.resultingConfig l k = some st.cfg := fun k st hk => by
    rw [← State.applyRecords_cfg h hv k, State.stream, hk]
    rfl
  have passes := State.validate_applied.1 hv
  by_contra hne
  rcases State.resultingConfig_cases (cfg i a hi) with ha | ⟨act, f, hm, hc⟩
  · rcases State.resultingConfig_cases (cfg j b hj) with hb | ⟨act, f, hm, hc⟩
    · obtain ⟨a', ha', ea⟩ := Option.map_eq_some_iff.1 ha
      obtain ⟨b', hb', eb⟩ := Option.map_eq_some_iff.1 hb
      exact hne (hs i j a' b' ha' hb' (by rw [ea, eb]; exact share))
    · exact State.testRecord_ids (passes _ hm) hc hne (cfg i a hi) share
  · exact State.testRecord_ids (passes _ hm) hc (Ne.symm hne) (cfg j b hj) (share.imp Eq.symm Eq.symm)

/-! ### Credits and locks -/

/-- Every stream's credits are within its burst (R65). -/
def State.CreditsWithin (s : State) : Prop := ∀ k st, s.stream k = some st → st.credits.toNat ≤ st.cfg.burst.toNat

theorem minByte_le (x y : Byte) : (minByte x y).toNat ≤ y.toNat := by
  unfold minByte
  split
  · assumption
  · exact le_rfl

/-- An action leaves credits within the burst (R65, R146, R147, R149). -/
theorem slotAfter_credits {x : Option Stream} (hx : ∀ st, x = some st → st.credits.toNat ≤ st.cfg.burst.toNat) {st : Stream}
    (h : slotAfter act f x = some st) : st.credits.toNat ≤ st.cfg.burst.toNat := by
  unfold slotAfter at h
  cases act with
  | install =>
    dsimp only at h
    split at h
    · cases h; exact le_rfl
    · exact hx st h
  | modify =>
    dsimp only at h
    split at h
    · obtain ⟨old, _, rfl⟩ := Option.map_eq_some_iff.1 h
      exact minByte_le _ _
    · exact hx st h
  | retire => cases h
  | suspend =>
    obtain ⟨old, ho, rfl⟩ := Option.map_eq_some_iff.1 h
    exact hx old ho
  | resume =>
    obtain ⟨old, ho, rfl⟩ := Option.map_eq_some_iff.1 h
    exact le_rfl
  | lock =>
    obtain ⟨old, ho, rfl⟩ := Option.map_eq_some_iff.1 h
    exact hx old ho

theorem State.CreditsWithin.applyRecord (h : s.CreditsWithin) (r : Staged) : (s.applyRecord r).CreditsWithin := by
  intro k st hk
  by_cases hr : ∃ act f, r = .entry k act f
  · obtain ⟨act, f, rfl⟩ := hr
    rw [State.applyRecord_stream] at hk
    refine slotAfter_credits (fun st' hst' => ?_) hk
    obtain ⟨old, ho, rfl⟩ := Option.map_eq_some_iff.1 hst'
    exact (old.bumpTimes_entry _ _).credits (h k old ho)
  · obtain ⟨old, ho, same⟩ :=
      (State.applyRecord_entry (s := s) fun act f e => hr ⟨act, f, e⟩).to_some hk
    exact same.credits (h k old ho)

theorem State.CreditsWithin.applyRecords (h : s.CreditsWithin) (l : List Staged) :
    (l.foldl State.applyRecord s).CreditsWithin := by
  induction l generalizing s with
  | nil => exact h
  | cons r l ih => exact ih (h.applyRecord r)

/-- A LOCK of a LOCKED slot keeps its entry (R10, R150). -/
theorem State.applyRecord_locked {st : Stream} (h : s.stream k = some st) (hl : st.locked = true) {r : Staged}
    (hr : ∀ act f, r = .entry k act f → act = .lock) : SameEntryAt (s.stream k) ((s.applyRecord r).stream k) := by
  by_cases hk : ∃ act f, r = .entry k act f
  · obtain ⟨act, f, rfl⟩ := hk
    obtain rfl := hr act f rfl
    rw [State.applyRecord_lock h, h]
    exact .some (.of_eq rfl hl.symm rfl rfl)
  · exact State.applyRecord_entry fun act f e => hk ⟨act, f, e⟩

theorem State.applyRecords_locked (hr : ∀ act f, .entry k act f ∈ l → act = .lock) {s : State} {st : Stream}
    (h : s.stream k = some st) (hl : st.locked = true) :
    SameEntryAt (s.stream k) ((l.foldl State.applyRecord s).stream k) := by
  induction l generalizing s st with
  | nil => exact .refl _
  | cons r l ih =>
    have first := State.applyRecord_locked h hl (r := r) fun act f e => hr act f (e ▸ List.mem_cons_self)
    obtain ⟨st', h', same⟩ := first.of_some h
    exact first.trans (ih (fun act f hm => hr act f (List.mem_cons_of_mem _ hm)) h' (same.locked.trans hl))

/-- The only record for a LOCKED slot that passes validation is a LOCK (R10, R142). -/
theorem State.lock_of_passes {st : Stream} (h : s.stream k = some st) (hl : st.locked = true)
    (hp : s.testRecord l (.entry k act f) = none) : act = .lock := by
  obtain ⟨fits, allowed⟩ := State.testRecord_passes hp
  cases act <;> simp_all [slotStateFails, State.lockRefuses, refusedByLock]

/-! ### The commit end -/

/-- A REJECTED commit end changes nothing but the operation and the lease timer (R144, R124). -/
theorem State.endOperation_eq (s : State) : s.endOperation = { s with
    op := .idle
    agent := { s.agent with lease := s.agent.lease.map (fun l => { l with timer := some s.globals.leaseTimeout }) } } := rfl

/-- A commit end, APPLIED or REJECTED, keeps the laws of the table (R3, R65). -/
theorem State.TableSound.endCommit (h : s.TableSound) {m : Word16} (ho : s.op = .commit l m) :
    (s.endCommit l m).TableSound := by
  have noJob : s.op.job? = none := by rw [ho]; rfl
  unfold State.endCommit
  cases hv : s.validate l with
  | rejected i reason =>
    refine State.TableSound.flow ?_ (State.raiseNotice_flow _ _)
    rw [State.endOperation_eq]
    exact { h with
      committing := fun _ _ e => by cases e
      job := fun _ e => by cases e
      image := fun hp _ => h.image hp noJob }
  | applied =>
    refine State.TableSound.flow ?_ (State.raiseNotice_flow _ _)
    have distinct := State.applyRecords_distinct h.ids (h.committing l m ho) hv
    have credits : (l.foldl State.applyRecord s).CreditsWithin := State.CreditsWithin.applyRecords h.credits l
    have same := s.applyRecords_applies l
    rw [State.applyCommit_eq]
    generalize l.foldl State.applyRecord s = u at distinct credits same
    exact
      { ids := distinct
        credits := credits
        staged := .nil
        committing := fun _ _ e => by cases e
        banks := fun bk => by
          show (u.banks.get bk).condition = .valid → DistinctIds (loadSlots (u.banks.get bk))
          rw [same.banks]
          exact h.banks bk
        job := fun _ e => by cases e
        image := fun hp _ => by
          show u.imageState = .valid ∨ u.imageState = .sealed → newestBank u.banks ≠ none
          rw [same.imageState, same.banks]
          have hp : u.phase = .loading ∨ u.phase = .running := hp
          rw [same.phase] at hp
          exact h.image hp noJob }

/-- A commit end keeps the entry of a LOCKED slot (R10). -/
theorem State.endCommit_locked {st : Stream} (h : s.stream k = some st) (hl : st.locked = true) (l : List Staged)
    (m : Word16) : SameEntryAt (s.stream k) ((s.endCommit l m).stream k) := by
  unfold State.endCommit
  cases hv : s.validate l with
  | rejected i reason => exact (s.endOperation.raiseNotice_flow _).entries k
  | applied =>
    have records := State.applyRecords_locked (fun act f hm => State.lock_of_passes h hl (State.validate_applied.1 hv _ hm))
      h hl
    refine SameEntryAt.trans ?_ ((State.raiseNotice_flow _ _).entries k)
    rw [State.applyCommit_eq]
    exact records

end Sys2Proof.Machine
end


section
/-! SUPPORT. What a command can do, said once: work of the running part that keeps every entry of the table, a reset, the end of the
start-up load, a commit end, or a phase end of a save or seal. -/

namespace Sys2Proof.Machine

/-! ### Work of the running part -/

/-- Work that keeps every entry: the control state as the agent may change it, the entries of the table the same, and the laws of
the table kept (R3, R65, R119 to R141). -/
structure Works (s t : State) : Prop where
  queue : QueueStep s t
  entries : EntriesKept s t
  table : s.TableSound → t.TableSound

theorem Works.trans {s t u : State} (a : Works s t) (b : Works t u) : Works s u :=
  ⟨a.queue.trans b.queue, a.entries.trans b.entries, fun h => b.table (a.table h)⟩

theorem Flow.works {s t : State} (h : Flow s t) : Works s t :=
  ⟨h.step.agentStep.queueStep, h.entries, fun hs => hs.flow h⟩

theorem Works.refl (s : State) : Works s s := (Flow.refl s).works

/-- A step that begins no operation and leaves the staging area sound is work. -/
theorem Works.of_staging {s t : State} (q : QueueStep s t) (entries : EntriesKept s t) (op : t.op = s.op)
    (staged : StagedSound s.staging → StagedSound t.staging) : Works s t :=
  ⟨q, entries, fun h => (h.withStaging (staged h.staged)).of_same (s := { s with staging := t.staging }) entries rfl op
    q.banks q.imageState q.phase⟩

/-- A step of the agent that leaves slots, staging area and operation alone is work. -/
theorem Works.of_agent {s t : State} (q : AgentStep s t) (slots : t.slots = s.slots) (staging : t.staging = s.staging)
    (op : t.op = s.op) : Works s t :=
  .of_staging q.queueStep (.of_slots slots) op fun h => staging ▸ h

/-- Work, or work and then a reset. -/
def Handled (s t : State) : Prop := Works s t ∨ ∃ u, Works s u ∧ t = u.takeReset

theorem Works.handled {s t : State} (h : Works s t) : Handled s t := .inl h

theorem Flow.handled {s t : State} (h : Flow s t) : Handled s t := .inl h.works

theorem Handled.after {s v t : State} (a : Works s v) (h : Handled v t) : Handled s t := by
  rcases h with h | ⟨u, h, e⟩
  · exact .inl (a.trans h)
  · exact .inr ⟨u, a.trans h, e⟩

theorem handled_takeReset (s : State) : Handled s s.takeReset := .inr ⟨s, .refl s, rfl⟩

/-! ### Requests -/

theorem State.answer_works (s : State) (m t : Word16) (code : Byte) (st : Status) (results : List Byte) :
    Works s (s.answer m t code st results) := by
  have step := s.answer_agentStep m t code st results
  obtain ⟨ln, fr, g, c, e⟩ := s.answer_frame m t code st results
  rw [e] at step ⊢
  exact .of_agent step rfl rfl rfl

theorem State.place_works (s : State) (t : Word16) (payload : List Byte) : Works s (s.place t payload) := by
  have step := s.place_agentStep t payload
  obtain ⟨ln, fr, g, e⟩ := s.place_frame t payload
  rw [e] at step ⊢
  exact .of_agent step rfl rfl rfl

theorem Reply.answer_works {s : State} {r : Reply} (h : Works s r.state) (m t : Word16) (code : Byte) :
    Works s (r.answer m t code) := h.trans (State.answer_works _ _ _ _ _ _)

theorem State.runOpenSession_works (s : State) (m : Word16) : Works s (s.runOpenSession m).state := by
  have step := s.runOpenSession_agentStep m
  unfold State.runOpenSession at step ⊢
  split
  · next h =>
    rw [h] at step
    exact .of_agent step rfl rfl rfl
  · split <;> exact .refl s

theorem State.runCloseSession_works (s : State) (m : Word16) : Works s (s.runCloseSession m).state := by
  have step := s.runCloseSession_agentStep m
  unfold State.runCloseSession at step ⊢
  split
  · next h =>
    rw [if_pos h] at step
    exact .of_staging step.queueStep (.of_slots rfl) rfl fun _ => .nil
  · exact .refl s

theorem State.runReadStreamCounters_works (s : State) (a b : Byte) : Works s (s.runReadStreamCounters a b).state := by
  unfold State.runReadStreamCounters
  dsimp only
  split
  · exact .refl s
  · exact (State.mapStream_flow (f := fun st => { st with counters := Vector.replicate 21 0#32 }) fun _ _ =>
      .of_eq rfl rfl rfl rfl).works

theorem State.runReadPortCounters_works (s : State) (a b : Byte) : Works s (s.runReadPortCounters a b).state := by
  have step := s.runReadPortCounters_agentStep a b
  unfold State.runReadPortCounters State.clearPage at step ⊢
  split
  · exact .refl s
  · next ha =>
    rw [if_neg ha] at step
    dsimp only at step ⊢
    split
    · next hb => rw [if_pos hb] at step; exact .of_agent step rfl rfl rfl
    · next hb => rw [if_neg hb] at step; exact .of_agent step rfl rfl rfl

theorem State.runReadFaults_works (s : State) (n : Byte) : Works s (s.runReadFaults n).state :=
  .of_agent (s.runReadFaults_agentStep n) rfl rfl rfl

/-- A record joins the staging area: the queues and bounds as an agent's step leaves them, the area sound (R138, R139). -/
theorem State.stage_works {s : State} {r : Staged} {area : List Staged} (hr : r.Sound) (h : stageInto s.staging r = some area) :
    Works s { s with staging := area } :=
  .of_staging ⟨rfl, rfl, rfl, rfl, rfl, ⟨id, id⟩, stageInto_length h, id, .inl rfl⟩ (.of_slots rfl) rfl fun hs =>
    hs.stageInto hr h

theorem State.runStageEntry_works (s : State) (a b c : Byte) (rec : EntryRecord) :
    Works s (s.runStageEntry a b c rec).state := by
  unfold State.runStageEntry
  dsimp only
  generalize (if c = 1#8 then some (entryFields rec) else none) = fields
  split
  · exact .refl s
  · next act _ =>
    split
    · exact .refl s
    · next hok =>
      split
      · exact .refl s
      · split
        · next area h =>
          have sound : (Staged.entry (slotOf a) act fields).Sound := by rwa [Bool.not_eq_false] at hok
          exact State.stage_works sound h
        · exact .refl s

theorem State.runStageGlobals_works (s : State) (rec : GlobalsRecord) : Works s (s.runStageGlobals rec).state := by
  unfold State.runStageGlobals
  split
  · exact .refl s
  · split
    · next h => exact State.stage_works (r := .globals (globalsFields rec)) trivial h
    · exact .refl s

theorem State.runCommit_works {s : State} (ho : s.op = .idle) (m : Word16) : Works s (s.runCommit m).state := by
  unfold State.runCommit
  split
  · exact .refl s
  · exact ⟨(s.beginOperation_agentStep (.inl rfl)).queueStep, .of_slots rfl, fun h => h.beginCommit ho m⟩

theorem State.runSaveImage_works (s : State) (m : Word16) : Works s (s.runSaveImage m).state := by
  have step := s.runSaveImage_agentStep m
  unfold State.runSaveImage at step ⊢
  split
  · exact .refl s
  · next h =>
    rw [if_neg h] at step
    exact ⟨step.queueStep, .of_slots rfl, fun h => h.beginSave m⟩

theorem State.runSealImage_works {s : State} (hp : s.phase = .running) (ho : s.op = .idle) (m : Word16) :
    Works s (s.runSealImage m).state := by
  have step := s.runSealImage_agentStep m
  unfold State.runSealImage at step ⊢
  cases hi : s.imageState with
  | valid =>
    rw [hi] at step
    exact ⟨step.queueStep, .of_slots rfl, fun h => h.beginSeal hp ho hi m⟩
  | blank => exact .refl s
  | sealed => exact .refl s
  | corrupt => exact .refl s

/-- While an operation is in progress only the requests of Table 8-2 are executed (R122). -/
theorem State.op_idle {s : State} {m : Word16} {r : Request} (h : s.refusal m r = none)
    (hd : passesDuring (s.holds m) r = false) : s.op = .idle := by
  by_contra ho
  unfold State.refusal at h
  split at h
  · cases h
  · rw [if_pos ⟨ho, hd⟩] at h
    cases h

/-- The execution of a request that no step refuses: work, or the FULL reset taken at once (R120, R135). -/
theorem State.execute_handled {s : State} (hp : s.phase = .running) {m : Word16} {r : Request} (h : s.refusal m r = none)
    (t : Word16) : Handled s (s.execute m t r) := by
  cases r with
  | identify => exact (s.answer_works _ _ _ _ _).handled
  | openSession => exact (Reply.answer_works (s.runOpenSession_works m) _ _ _).handled
  | closeSession => exact (Reply.answer_works (s.runCloseSession_works m) _ _ _).handled
  | readEntry slot => exact (s.answer_works _ _ _ _ _).handled
  | readStreamCounters a b => exact (Reply.answer_works (s.runReadStreamCounters_works a b) _ _ _).handled
  | readPortCounters a b => exact (Reply.answer_works (s.runReadPortCounters_works a b) _ _ _).handled
  | readFaults n => exact (Reply.answer_works (s.runReadFaults_works n) _ _ _).handled
  | stageEntry a b c rec => exact (Reply.answer_works (s.runStageEntry_works a b c rec) _ _ _).handled
  | stageGlobals rec => exact (Reply.answer_works (s.runStageGlobals_works rec) _ _ _).handled
  | readStaging first => exact (s.answer_works _ _ _ _ _).handled
  | discardStaging =>
    have emptied : Works s { s with staging := [] } :=
      .of_staging ⟨rfl, rfl, rfl, rfl, rfl, ⟨id, id⟩, fun _ => Nat.zero_le _, id, .inl rfl⟩ (.of_slots rfl) rfl fun _ => .nil
    exact (emptied.trans (State.answer_works _ _ _ _ _ _)).handled
  | commit => exact (Reply.answer_works (State.runCommit_works (State.op_idle h rfl) m) _ _ _).handled
  | saveImage => exact (Reply.answer_works (s.runSaveImage_works m) _ _ _).handled
  | sealImage => exact (Reply.answer_works (State.runSealImage_works hp (State.op_idle h rfl) m) _ _ _).handled
  | resetPart kind =>
    by_cases hk : kind = 1#8
    · simp only [State.execute, if_pos hk]
      exact (s.trafficReset_flow.works.trans (State.answer_works _ _ _ _ _ _)).handled
    · simp only [State.execute, if_neg hk]
      rcases s.runResetFull_cases m t 15#8 with e | ⟨ln, fr, c, e⟩
      · rw [e]
        exact handled_takeReset s
      · rw [e]
        exact Works.handled (.of_agent ⟨rfl, rfl, rfl, rfl, rfl, ⟨id, id⟩, id, rfl, .inl rfl⟩ rfl rfl rfl)
  | unknown code => exact (s.answer_works _ _ _ _ _).handled

theorem State.judge_handled {s : State} (hp : s.phase = .running) (m t : Word16) (r : Request) :
    Handled s (s.judge m t r) := by
  unfold State.judge
  split
  · exact (s.place_works _ _).handled
  · split
    · exact (s.answer_works _ _ _ _ _).handled
    · next h => exact State.execute_handled hp h t

/-- A change of the agent alone, its request queue no longer than before, is work. -/
theorem State.setAgent_works {s : State} {a : Agent} (h : s.agent.requests.length ≤ 4 → a.requests.length ≤ 4) :
    Works s (s.setAgent a) :=
  .of_staging ⟨rfl, rfl, rfl, rfl, rfl, ⟨id, id⟩, id, h, .inl rfl⟩ (.of_slots rfl) rfl id

theorem State.takeRequest_handled {s : State} (hp : s.phase = .running) (m t : Word16) (r : Request) :
    Handled s (s.takeRequest m t r) := by
  have begun : Works s (s.beginTurn.touchLease m) := by
    rw [State.begun_eq]
    exact State.setAgent_works (a := { s.agent with busy := true, lease := s.leaseTouched m }) id
  exact .after begun (State.judge_handled (begun.queue.phase.trans hp) m t r)

theorem State.takeFrame_handled {s : State} (hp : s.phase = .running) (f : List Byte) : Handled s (s.takeFrame f) := by
  unfold State.takeFrame
  split
  · exact State.takeRequest_handled hp _ _ _
  · exact ((State.setAgent_works (s := s) (a := { s.agent with busy := true }) id).trans
      (State.place_works _ _ _)).handled

/-- The agent, when it may, takes the oldest request (R108, R119). -/
theorem State.runAgent_handled {s : State} (hp : s.phase = .running) : Handled s s.runAgent := by
  unfold State.runAgent
  split
  · split
    · next f rest e =>
      have freed : Works s ((s.setAgent { s.agent with requests := rest }).release f) :=
        (State.setAgent_works fun h => by
          rw [e, List.length_cons] at h
          exact Nat.le_of_succ_le h).trans (State.release_flow _ f).works
      exact .after freed (State.takeFrame_handled (freed.queue.phase.trans hp) _)
    · exact (Works.refl s).handled
  · exact (Works.refl s).handled

theorem State.consumeRequest_handled {s : State} (hp : s.phase = .running) (f : Frame) :
    Handled s (s.consumeRequest f) := by
  have offered : Works s (s.offerRequest f) := by
    unfold State.offerRequest
    split
    · next h =>
      refine State.setAgent_works fun _ => ?_
      rw [List.length_append, List.length_singleton]
      exact h
    · exact ((s.release_flow f).trans (State.bumpGlobal_flow _ _)).works
  exact .after offered (State.runAgent_handled (offered.queue.phase.trans hp))

/-- A request that comes in its frame, whatever its take does (R108, R119; log 6). -/
theorem State.requestComes_handled {s : State} (hp : s.phase = .running) {bytes : List Byte} {take : State → State}
    (h : ∀ v, v.phase = .running → Handled v (take v)) : Handled s (s.requestComes bytes take) := by
  unfold State.requestComes
  split
  · next cells s' hg =>
    have granted := (State.grant_flow hg).works
    split
    · have freed := granted.trans (s'.release_flow ⟨bytes, cells⟩).works
      exact .after freed (h _ (freed.queue.phase.trans hp))
    · exact .after granted (State.consumeRequest_handled (granted.queue.phase.trans hp) _)
  · exact (s.poolEmpty_flow _).handled

theorem State.endTurn_handled {s : State} (hp : s.phase = .running) : Handled s s.endTurn := by
  unfold State.endTurn
  split
  · exact .after (State.setAgent_works (a := { s.agent with busy := false }) id) (State.runAgent_handled hp)
  · exact (Works.refl s).handled

/-! ### Received frames and links -/

theorem State.dispatchLine_handled {s : State} (hp : s.phase = .running) (f : Frame) (k : Kind) :
    Handled s (s.dispatchLine f k) := by
  cases k with
  | data => exact (s.lineData_flow f).handled
  | mgmtRsp => exact (s.lineData_flow f).handled
  | mgmtNotice => exact (s.lineData_flow f).handled
  | command => exact (s.sendToField_flow f).handled
  | mgmtReq =>
    show Handled s (ite _ _ _)
    split
    · exact State.consumeRequest_handled hp f
    · exact (s.sendToField_flow f).handled

theorem State.checkAndDispatch_handled {s : State} (hp : s.phase = .running) (p : Port) (f : Frame) :
    Handled s (s.checkAndDispatch p f) := by
  unfold State.checkAndDispatch
  split
  · split
    · next k _ =>
      cases p with
      | f0 => exact (s.dispatchField_flow .f0 f k).handled
      | f1 => exact (s.dispatchField_flow .f1 f k).handled
      | l => exact State.dispatchLine_handled hp f k
    · exact (s.headerError_flow p f).handled
  · exact (s.headerError_flow p f).handled

/-- A received frame, from its end marker on (R91, R92). -/
theorem State.endMarker_handled {s : State} (hp : s.phase = .running) (p : Port) : Handled s (s.endMarker p) := by
  unfold State.endMarker
  split
  · exact (Works.refl s).handled
  · next r _ =>
    split
    · exact (s.abandonMalformed_flow p).handled
    · have taken : Works s ((s.setReception p none).bumpPort p .framesReceived) :=
        ((s.setPort_flow p _).trans (State.bumpPort_flow _ p .framesReceived)).works
      exact .after taken (State.checkAndDispatch_handled (taken.queue.phase.trans hp) p ⟨r.bytes, r.cells⟩)

theorem State.bySymbol_handled {s : State} {p : Port} {f : State → State} (h : Handled s (f s)) :
    Handled s (s.bySymbol p f) := by
  unfold State.bySymbol
  split
  · exact (Works.refl s).handled
  · exact (s.breakRun_flow p).handled
  · exact h

theorem State.linkLoss_handled (s : State) (p : Port) : Handled s (s.linkLoss p) := by
  cases p with
  | f0 => exact (s.fieldLinkLoss_flow .f0).handled
  | f1 => exact (s.fieldLinkLoss_flow .f1).handled
  | l =>
    show Handled s s.lineLinkLoss
    unfold State.lineLinkLoss
    split
    · exact .inr ⟨s.dropLine, s.dropLine_flow.works, rfl⟩
    · exact (s.dropLine_flow.trans (State.detect_flow _ _)).handled

theorem State.loseSignal_handled (s : State) (p : Port) : Handled s (s.loseSignal p) := by
  unfold State.loseSignal
  split
  · exact (Works.refl s).handled
  · exact (s.setPort_flow p _).handled
  · exact s.linkLoss_handled p

theorem State.lineError_handled (s : State) (p : Port) (sub : Nat) : Handled s (s.lineError p sub) := by
  unfold State.lineError
  split
  · exact (Works.refl s).handled
  · exact (s.breakRun_flow p).handled
  · have kept := fun x => (s.abandonMalformed_flow p).trans (State.setPort_flow _ p x)
    dsimp only
    split
    · exact .after (kept _).works (State.linkLoss_handled _ p)
    · exact (kept _).handled

theorem State.endTx_handled (s : State) (p : Port) : Handled s (s.endTx p) := by
  unfold State.endTx
  split
  · split
    · exact handled_takeReset s
    · exact (s.finishTx_flow p _).handled
  · exact (Works.refl s).handled

theorem State.takeFullReset_handled (s : State) : Handled s s.takeFullReset := by
  unfold State.takeFullReset
  split
  · exact handled_takeReset s
  · exact (Works.refl s).handled

theorem State.leaseTimeout_handled (s : State) : Handled s s.leaseTimeout := by
  unfold State.leaseTimeout
  split
  · have ended : Works s s.endLease :=
      .of_staging ⟨rfl, rfl, rfl, rfl, rfl, ⟨id, id⟩, fun _ => Nat.zero_le _, id, .inl rfl⟩ (.of_slots rfl) rfl fun _ => .nil
    exact (ended.trans (State.raiseNotice_flow _ _).works).handled
  · exact (Works.refl s).handled

/-! ### Commands -/

/-- What a command can do to the part. -/
inductive Happening (s t : State) : Prop
  /-- Work of the part, or nothing. -/
  | works (h : Works s t)
  /-- A FULL reset, after such work (R135). -/
  | fullReset (u : State) (h : Works s u) (e : t = u.takeReset)
  /-- A power-on or pin reset (R168, R172). -/
  | reset (low : Bool) (e : t = { s.interrupt with rstnLow := low }.takeReset)
  /-- Power lost, or the part held by RSTn (R168, R172). -/
  | cleared (ph : Phase) (hp : ph = .off ∨ ph = .held) (low : Bool) (e : t = { s.interrupt.cleared ph with rstnLow := low })
  /-- The end of the start-up load (R168). -/
  | loadEnd (hp : s.phase = .loading) (e : t = s.endLoad.settle)
  /-- A commit end (R144, R145). -/
  | commitEnd (l : List Staged) (m : Word16) (ho : s.op = .commit l m) (e : t = (s.endCommit l m).settle)
  /-- The end of an erase phase (R171, R173). -/
  | eraseEnd (j : BankJob) (hj : s.op.job? = some j) (hp : j.phase = .erase) (e : t = s.eraseEnds.settle)
  /-- The end of a write phase (R171, R173). -/
  | writeEnd (j : BankJob) (hj : s.op.job? = some j) (hp : j.phase = .write) (e : t = s.writeEnds.settle)
  /-- The end of a read back (R171, R174). -/
  | readBackEnd (j : BankJob) (hj : s.op.job? = some j) (hp : j.phase = .readBack) (misread : List (Nat × Byte))
    (hm : ∀ c ∈ misread, c.1 < bankSize) (notice : Bool → ImageState → NoticeBody)
    (e : t = (s.readBackEnds j misread notice).settle)

theorem State.takeReset_phase (s : State) : s.takeReset.phase = .loading := s.takeReset_fresh.phase

/-- What follows at once adds nothing of its own; after a reset nothing follows. -/
theorem Handled.settles {s t : State} (h : Handled s t) : Happening s t.settle := by
  rcases h with h | ⟨u, h, e⟩
  · exact .works (h.trans t.settle_flow.works)
  · refine .fullReset u h ?_
    rw [e, State.settle_stopped (by rw [State.takeReset_phase]; decide)]

/-- A happening of the running part, after an update that is work. -/
theorem whenRunning_happening {s v : State} {f : State → State} (a : Works s v)
    (h : v.phase = .running → Handled v (f v)) : Happening s (whenRunning f v) := by
  by_cases hp : v.phase = .running
  · rw [whenRunning_running hp]
    exact (Handled.after a (h hp)).settles
  · rw [whenRunning_stopped hp]
    exact .works a

/-- A happening of the running part that is a step of the data path. -/
theorem Flow.whenRunning {s : State} {f : State → State} (h : Flow s (f s)) : Happening s (whenRunning f s) :=
  whenRunning_happening (.refl s) fun _ => h.handled

/-- A request row of the table (R119; log 6). -/
theorem agentRequest_happening (s : State) (m t : Word16) (r : Request) :
    Happening s (whenRunning (fun s => s.agentRequest m t r) s) :=
  whenRunning_happening (.refl s) fun hp => State.requestComes_handled hp fun _ hv => State.takeRequest_handled hv m t r

theorem State.releaseReset_happening (s : State) (lowNs : Nat) : Happening s (s.releaseReset lowNs) := by
  unfold State.releaseReset
  split
  · exact .works (Works.of_agent ⟨rfl, rfl, rfl, rfl, rfl, ⟨id, id⟩, id, rfl, .inl rfl⟩ rfl rfl rfl)
  · split
    · exact .reset false rfl
    · exact .works (.refl s)

theorem State.assertReset_happening (s : State) : Happening s s.assertReset := by
  unfold State.assertReset
  split
  · exact .works (Works.of_agent ⟨rfl, rfl, rfl, rfl, rfl, ⟨id, id⟩, id, rfl, .inl rfl⟩ rfl rfl rfl)
  · exact .cleared .held (.inr rfl) true rfl

theorem State.powerUp_happening (s : State) : Happening s s.powerUp := by
  unfold State.powerUp
  split
  · exact .cleared .held (.inr rfl) s.interrupt.rstnLow rfl
  · exact .reset s.interrupt.rstnLow rfl

theorem State.tick_happening (s : State) : Happening s s.tick := by
  unfold State.tick
  split
  · exact .works (Works.of_agent ⟨rfl, rfl, rfl, rfl, rfl, ⟨id, id⟩, id, rfl, .inl rfl⟩ rfl rfl rfl)
  · exact .works (.refl s)

theorem whenRunning_commitEnds (s : State) : Happening s (whenRunning (fun s => s.commitEnds) s) := by
  by_cases hp : s.phase = .running
  · cases ho : s.op with
    | commit l m =>
      refine .commitEnd l m ho ?_
      simp only [whenRunning_running hp, State.commitEnds, ho]
    | _ =>
      have e : s.commitEnds = s := by simp only [State.commitEnds, ho]
      exact whenRunning_happening (.refl s) fun _ => by rw [e]; exact (Works.refl s).handled
  · rw [whenRunning_stopped hp]
    exact .works (.refl s)

theorem whenRunning_eraseEnds (s : State) : Happening s (whenRunning (fun s => s.eraseEnds) s) := by
  by_cases h : ∃ j, s.op.job? = some j ∧ j.phase = .erase
  · obtain ⟨j, hj, hp⟩ := h
    by_cases hr : s.phase = .running
    · exact .eraseEnd j hj hp (by rw [whenRunning_running hr])
    · rw [whenRunning_stopped hr]
      exact .works (.refl s)
  · have e : s.eraseEnds = s := by
      unfold State.eraseEnds
      split
      · next j hj => exact if_neg fun hp => h ⟨j, hj, hp⟩
      · rfl
    exact whenRunning_happening (.refl s) fun _ => by rw [e]; exact (Works.refl s).handled

theorem whenRunning_writeEnds (s : State) : Happening s (whenRunning (fun s => s.writeEnds) s) := by
  by_cases h : ∃ j, s.op.job? = some j ∧ j.phase = .write
  · obtain ⟨j, hj, hp⟩ := h
    by_cases hr : s.phase = .running
    · exact .writeEnd j hj hp (by rw [whenRunning_running hr])
    · rw [whenRunning_stopped hr]
      exact .works (.refl s)
  · have e : s.writeEnds = s := by
      unfold State.writeEnds
      split
      · next j hj => exact if_neg fun hp => h ⟨j, hj, hp⟩
      · rfl
    exact whenRunning_happening (.refl s) fun _ => by rw [e]; exact (Works.refl s).handled

/-- A read back that ends, or a row that finds none in progress (R171, R174; log 4). -/
theorem whenRunning_readBack {s : State} {f : State → State} {misread : List (Nat × Byte)}
    (hm : badAddress misread = none)
    (h : f s = s ∨ ∃ j notice, s.op.job? = some j ∧ j.phase = .readBack ∧ f s = s.readBackEnds j misread notice) :
    Happening s (whenRunning f s) := by
  rcases h with e | ⟨j, notice, hj, hp, e⟩
  · exact whenRunning_happening (.refl s) fun _ => by rw [e]; exact (Works.refl s).handled
  · by_cases hr : s.phase = .running
    · exact .readBackEnd j hj hp misread (badAddress_none hm) notice (by rw [whenRunning_running hr, e])
    · rw [whenRunning_stopped hr]
      exact .works (.refl s)

theorem State.saveEnds_cases (s : State) (misread : List (Nat × Byte)) : s.saveEnds misread = s ∨
    ∃ j notice, s.op.job? = some j ∧ j.phase = .readBack ∧ s.saveEnds misread = s.readBackEnds j misread notice := by
  unfold State.saveEnds
  split
  · next j ho =>
    split
    · next hp => exact .inr ⟨j, _, by rw [ho]; rfl, hp, rfl⟩
    · exact .inl rfl
  all_goals exact .inl rfl

theorem State.sealEnds_cases (s : State) (misread : List (Nat × Byte)) : s.sealEnds misread = s ∨
    ∃ j notice, s.op.job? = some j ∧ j.phase = .readBack ∧ s.sealEnds misread = s.readBackEnds j misread notice := by
  unfold State.sealEnds
  split
  · next j ho =>
    split
    · next hp => exact .inr ⟨j, _, by rw [ho]; rfl, hp, rfl⟩
    · exact .inl rfl
  all_goals exact .inl rfl

/-- What a command that answers can do (all rows of the table). -/
theorem exec_happening {c : Instr} {s t : State} (h : exec c s = .next t) : Happening s t := by
  have answers : ∀ {u : State}, exec c s = .next u → Happening s u → Happening s t := fun e hu => by
    rw [Host.Outcome.next.inj (h.symm.trans e)]
    exact hu
  cases c with
  | powerOn => exact answers rfl s.powerUp_happening
  | powerLoss => exact answers rfl (.cleared .off (.inl rfl) s.interrupt.rstnLow rfl)
  | rstnAsserted => exact answers rfl s.assertReset_happening
  | pinReset lowNs => exact answers rfl (s.releaseReset_happening lowNs)
  | startUpLoadEnd =>
    refine answers (u := s.loadEnds) rfl ?_
    unfold State.loadEnds
    split
    · next hp => exact .loadEnd hp rfl
    · exact .works (.refl s)
  | signalDetected p =>
    exact answers rfl (whenRunning_happening (s.setPort_flow p _).works fun _ => (State.detect_flow _ p).handled)
  | signalLost p =>
    exact answers rfl (whenRunning_happening (s.setPort_flow p _).works fun _ => State.loseSignal_handled _ p)
  | alignmentWordReceived p ack => exact answers rfl (s.alignmentWord_flow p ack).whenRunning
  | alignmentTimerRunOut p => exact answers rfl (s.alignmentTimeout_flow p).whenRunning
  | lineCodeError p sub => exact answers rfl (whenRunning_happening (.refl s) fun _ => s.lineError_handled p sub)
  | startMarkerReceived p =>
    exact answers rfl (whenRunning_happening (.refl s) fun _ => State.bySymbol_handled (s.startMarker_flow p).handled)
  | dataByteReceived p b =>
    exact answers rfl (whenRunning_happening (.refl s) fun _ => State.bySymbol_handled (s.dataByte_flow p b).handled)
  | abortMarkerReceived p =>
    exact answers rfl (whenRunning_happening (.refl s) fun _ => State.bySymbol_handled (s.abandonMalformed_flow p).handled)
  | frameReceived p =>
    exact answers rfl (whenRunning_happening (.refl s) fun hp => State.bySymbol_handled (State.endMarker_handled hp p))
  | waitTimerRunOut r => exact answers rfl (s.resolveHeld_flow r true).whenRunning
  | pathTimerRunOut k p => exact answers rfl (s.pathTimeout_flow k p).whenRunning
  | intervalTimerRunOut k => exact answers rfl (s.intervalTimeout_flow k).whenRunning
  | transmissionStart p => exact answers rfl (s.startTx_flow p).whenRunning
  | transmissionEnd p => exact answers rfl (whenRunning_happening (.refl s) fun _ => s.endTx_handled p)
  | noticeOffer => exact answers rfl s.feedNotices_flow.whenRunning
  | agentTurnEnd => exact answers rfl (whenRunning_happening (.refl s) State.endTurn_handled)
  | badFrame bytes =>
    exact answers rfl (whenRunning_happening (.refl s) fun hp =>
      State.requestComes_handled hp fun _ hv => State.takeFrame_handled hv bytes)
  | unknownRequest m t code => exact answers rfl (agentRequest_happening s m t _)
  | identify m t => exact answers rfl (agentRequest_happening s m t _)
  | openSession m t => exact answers rfl (agentRequest_happening s m t _)
  | closeSession m t => exact answers rfl (agentRequest_happening s m t _)
  | readEntry m t slot => exact answers rfl (agentRequest_happening s m t _)
  | readStreamCounters m t slot clear => exact answers rfl (agentRequest_happening s m t _)
  | readPortCounters m t clear page => exact answers rfl (agentRequest_happening s m t _)
  | readFaults m t maximum => exact answers rfl (agentRequest_happening s m t _)
  | stageEntry m t slot action cfgPresent rec => exact answers rfl (agentRequest_happening s m t _)
  | stageGlobals m t rec => exact answers rfl (agentRequest_happening s m t _)
  | readStaging m t first => exact answers rfl (agentRequest_happening s m t _)
  | discardStaging m t => exact answers rfl (agentRequest_happening s m t _)
  | commit m t => exact answers rfl (agentRequest_happening s m t _)
  | saveImage m t => exact answers rfl (agentRequest_happening s m t _)
  | sealImage m t => exact answers rfl (agentRequest_happening s m t _)
  | resetPartTraffic m t => exact answers rfl (agentRequest_happening s m t _)
  | resetPartFull m t => exact answers rfl (agentRequest_happening s m t _)
  | fullReset => exact answers rfl (whenRunning_happening (.refl s) fun _ => s.takeFullReset_handled)
  | commitEnd => exact answers rfl (whenRunning_commitEnds s)
  | leaseTimerRunOut => exact answers rfl (whenRunning_happening (.refl s) fun _ => s.leaseTimeout_handled)
  | bankEraseEnd => exact answers rfl (whenRunning_eraseEnds s)
  | bankWriteEnd => exact answers rfl (whenRunning_writeEnds s)
  | saveEnd misread =>
    cases hm : badAddress misread with
    | some a => simp [exec, execSaveEnd, hm] at h
    | none =>
      refine answers (u := whenRunning (fun s => s.saveEnds misread) s) ?_ (whenRunning_readBack hm (s.saveEnds_cases misread))
      simp only [exec, execSaveEnd, hm]
  | sealEnd misread =>
    cases hm : badAddress misread with
    | some a => simp [exec, execSealEnd, hm] at h
    | none =>
      refine answers (u := whenRunning (fun s => s.sealEnds misread) s) ?_ (whenRunning_readBack hm (s.sealEnds_cases misread))
      simp only [exec, execSealEnd, hm]
  | millisecondCountTick => exact answers rfl s.tick_happening

/-- A step is idle, or what the command at the front can do to the state with the rest of the queue (log 1, log 2). -/
theorem step_happening {s t : State} (h : step s = .next t) :
    t = s ∨ ∃ rest, Happening { s with pending := rest } t := by
  unfold step at h
  split at h
  · exact .inl (Host.Outcome.next.inj h).symm
  · exact .inr ⟨_, exec_happening h⟩

end Sys2Proof.Machine
end


section
/-! SUPPORT. The invariants of a step: bounds of the record queues, laws of the table, and the lock (R3, R10, R12, R65, R118, R137,
R155, R161), and the reset state that meets them. -/

namespace Sys2Proof.Machine

/-! ### Bounds -/

theorem State.Bounded.works {s t : State} (h : s.Bounded) (w : Works s t) : t.Bounded where
  faults := w.queue.logs.faults h.faults
  notices := w.queue.logs.notices h.notices
  requests := w.queue.requests h.requests
  staging := w.queue.staging h.staging
  generation := by rw [w.queue.generation]; exact h.generation

/-- A reset leaves the queues empty but for the fault of the load (R168). -/
theorem State.takeReset_bounded (s : State) : s.takeReset.Bounded := by
  obtain ⟨q, sl, g, e, _, _, hq, _, _⟩ := s.takeReset_spec
  rw [e]
  exact ⟨hq.trans (by decide), Nat.zero_le _, Nat.zero_le _, Nat.zero_le _, (by decide : 1#16 ≠ 0#16)⟩

theorem State.cleared_bounded (s : State) (ph : Phase) (low : Bool) :
    State.Bounded { s.cleared ph with rstnLow := low } :=
  ⟨Nat.zero_le _, Nat.zero_le _, Nat.zero_le _, Nat.zero_le _, (by decide : 1#16 ≠ 0#16)⟩

theorem State.Bounded.endLoad {s : State} (h : s.Bounded) : s.endLoad.Bounded := by
  obtain ⟨sl, po, time, fx, e⟩ := s.endLoad_spec
  rw [e]
  refine ⟨?_, h.notices, h.requests, h.staging, h.generation⟩
  rw [List.length_map]
  exact h.faults

theorem State.Bounded.endCommit {s : State} (h : s.Bounded) (l : List Staged) (m : Word16) :
    (s.endCommit l m).Bounded := by
  obtain ⟨u, same, g, sg, ls, e, hg⟩ := s.endCommit_spec l m
  rw [e]
  refine State.Bounded.works ?_ (State.raiseNotice_flow _ _).works
  refine ⟨same.logs.faults h.faults, same.logs.notices h.notices, ?_, ?_, ?_⟩
  · show u.agent.requests.length ≤ 4
    rw [same.agent]
    exact h.requests
  · rcases hg with ⟨_, rfl⟩ | ⟨_, rfl⟩
    · exact h.staging
    · exact Nat.zero_le _
  · rcases hg with ⟨rfl, _⟩ | ⟨rfl, _⟩
    · exact h.generation
    · exact nextGeneration_ne_zero _

theorem State.Bounded.readBackEnds {s : State} (h : s.Bounded) (j : BankJob) (misread : List (Nat × Byte))
    (notice : Bool → ImageState → NoticeBody) : (s.readBackEnds j misread notice).Bounded := by
  have logs := s.readBackEnds_logs j misread notice
  obtain ⟨q, o, n, l, g, ls, fx, e⟩ := s.readBackEnds_spec j misread notice
  rw [e] at logs ⊢
  exact ⟨logs.faults h.faults, logs.notices h.notices, h.requests, h.staging, h.generation⟩

theorem State.Bounded.settle {s : State} (h : s.Bounded) : s.settle.Bounded := h.works s.settle_flow.works

/-- Every happening keeps the bounds. -/
theorem State.Bounded.happening {s t : State} (h : s.Bounded) (c : Happening s t) : t.Bounded := by
  cases c with
  | works w => exact h.works w
  | fullReset u w e => exact e ▸ u.takeReset_bounded
  | reset low e => exact e ▸ State.takeReset_bounded _
  | cleared ph hp low e => exact e ▸ State.cleared_bounded _ ph low
  | loadEnd hp e => exact e ▸ h.endLoad.settle
  | commitEnd l m ho e => exact e ▸ (h.endCommit l m).settle
  | eraseEnd j hj hp e =>
    rw [e, State.eraseEnds_spec hj hp]
    exact State.Bounded.settle ⟨h.faults, h.notices, h.requests, h.staging, h.generation⟩
  | writeEnd j hj hp e =>
    rw [e, State.writeEnds_spec hj hp]
    exact State.Bounded.settle ⟨h.faults, h.notices, h.requests, h.staging, h.generation⟩
  | readBackEnd j hj hp misread hm notice e => exact e ▸ (h.readBackEnds j misread notice).settle

/-- Settles O53: every kind of happening keeps the bounds. -/
theorem boundsKept : Obligations.BoundsKept := by
  intro s t h e
  rcases step_happening e with rfl | ⟨rest, c⟩
  · exact h
  · have front : State.Bounded { s with pending := rest } := { h with }
    exact front.happening c

/-! ### The table -/

theorem State.TableSound.settle {s : State} (h : s.TableSound) : s.settle.TableSound := h.flow s.settle_flow

/-- Every happening keeps the laws of the table. -/
theorem State.TableSound.happening {s t : State} (h : s.TableSound) (c : Happening s t) : t.TableSound := by
  cases c with
  | works w => exact w.table h
  | fullReset u w e => exact e ▸ State.takeReset_tableSound (w.table h).banks
  | reset low e => exact e ▸ State.takeReset_tableSound h.interrupted
  | cleared ph hp low e => exact e ▸ State.cleared_tableSound h.interrupted hp low
  | loadEnd hp e => exact e ▸ (h.endLoad hp).settle
  | commitEnd l m ho e => exact e ▸ (h.endCommit ho).settle
  | eraseEnd j hj hp e => exact e ▸ (h.eraseEnds hj hp).settle
  | writeEnd j hj hp e => exact e ▸ (h.writeEnds hj hp).settle
  | readBackEnd j hj hp misread hm notice e => exact e ▸ (h.readBackEnds hj misread notice).settle

/-- Settles O57: every kind of happening keeps the laws of the table. -/
theorem tableKept : Obligations.TableKept := by
  intro s t h e
  rcases step_happening e with rfl | ⟨rest, c⟩
  · exact h
  · have front : State.TableSound { s with pending := rest } := { h with }
    exact front.happening c

/-! ### The lock -/

/-- A happening that leaves the part running keeps the entry of a LOCKED slot (R10). -/
theorem Happening.locked {s t : State} {k : Fin 64} {st : Stream} (c : Happening s t) (hp : t.phase = .running)
    (h : s.stream k = some st) (hl : st.locked = true) : SameEntryAt (s.stream k) (t.stream k) := by
  have settled : ∀ {u : State}, SameEntryAt (s.stream k) (u.stream k) → t = u.settle →
      SameEntryAt (s.stream k) (t.stream k) := fun hu e => e ▸ hu.trans (State.settle_flow _ |>.entries k)
  have notReset : ∀ u : State, t ≠ u.takeReset := fun u e => by
    rw [e, u.takeReset_phase] at hp
    cases hp
  cases c with
  | works w => exact w.entries k
  | fullReset u w e => exact absurd e (notReset u)
  | reset low e => exact absurd e (notReset _)
  | cleared ph hph low e =>
    subst e
    have hp : ph = .running := hp
    rcases hph with rfl | rfl <;> cases hp
  | loadEnd _ e => exact settled (s.endLoad_entries k) e
  | commitEnd l m ho e => exact settled (State.endCommit_locked h hl l m) e
  | eraseEnd j hj hjp e =>
    refine settled ?_ e
    rw [State.eraseEnds_spec hj hjp]
    exact .refl _
  | writeEnd j hj hjp e =>
    refine settled ?_ e
    rw [State.writeEnds_spec hj hjp]
    exact .refl _
  | readBackEnd j hj hjp misread hm notice e =>
    refine settled ?_ e
    obtain ⟨q, o, n, l, g, ls, fx, e⟩ := s.readBackEnds_spec j misread notice
    rw [e]
    exact .refl _

/-- Settles O58: whatever leaves the part running keeps the entry of a LOCKED slot. -/
theorem lockKept : Obligations.LockKept := by
  intro s t k st e hp hk hl
  rcases step_happening e with rfl | ⟨rest, c⟩
  · exact ⟨st, hk, hl, rfl, rfl⟩
  · obtain ⟨st', hk', same⟩ := (c.locked hp hk hl).of_some hk
    exact ⟨st', hk', same.locked.trans hl, same.cfg, same.suspended⟩

/-! ### The reset state -/

theorem reset_stream (k : Fin 64) : State.reset.stream k = none := by simp [State.stream, State.reset]

theorem reset_held (r : Fin 8) : State.reset.held r = none := by simp [State.held, State.reset]

theorem reset_queue (q : QueueId) : State.reset.queue q = [] := by
  cases q with
  | lane => rfl
  | cls c => simp [State.queue, State.reset]
  | command p => cases p <;> rfl

theorem reset_port (p : Port) : State.reset.port p = PortState.reset := by cases p <;> rfl

theorem length_allCells : allCells.length = 256 := by simp [allCells]

/-- Settles O4. -/
theorem resetValues : Obligations.ResetValues := by
  refine ⟨rfl, rfl, reset_stream, rfl, rfl, rfl, rfl, rfl, reset_held, fun p => ?_, length_allCells, reset_queue, rfl, rfl, rfl,
    rfl, rfl, rfl, rfl, rfl, rfl, rfl, rfl, rfl, fun p c => ?_, fun c => ?_, fun k c => ?_, rfl, fun bk => ?_⟩
  · rw [reset_port]
    exact ⟨rfl, rfl, rfl⟩
  · rw [State.portCounter, reset_port]
    simp [PortState.reset]
  · simp [State.globalCounter, State.reset]
  · rw [State.streamCounter, reset_stream]
  · cases bk <;> exact condition_nil

theorem reset_tableSound : State.reset.TableSound where
  ids := distinctIds_empty
  credits k st hk := by rw [reset_stream] at hk; cases hk
  staged := .nil
  committing _ _ ho := by cases ho
  banks bk hv := by cases bk <;> exact absurd (condition_nil.symm.trans hv) (by decide)
  job _ hj := by cases hj
  image _ _ hi := by rcases hi with hi | hi <;> cases hi

/-- At reset every cell is free and none is held (R101). -/
theorem reset_poolSound : State.reset.PoolSound where
  whole := by
    have none_held : State.reset.cellsHeld = [] := by decide +kernel
    rw [none_held, List.append_nil]
    exact .refl _
  once p := by cases p <;> exact .nil

/-- Settles O60. -/
theorem resetMeetsInvariants : Obligations.ResetMeetsInvariants := by
  refine ⟨⟨by decide, by decide, by decide, by decide, by decide⟩, ⟨reset_banks_sound, fun _ hj => by cases hj⟩,
    ⟨fun k st h hk => ?_, fun k st hk => ?_, fun r h st hr => ?_, fun r q h g hr => ?_⟩, reset_poolSound, reset_tableSound⟩
  · rw [reset_stream] at hk; cases hk
  · rw [reset_stream] at hk; cases hk
  · rw [reset_held] at hr; cases hr
  · rw [reset_held] at hr; cases hr

end Sys2Proof.Machine
end


section
/-! SUPPORT. Copies that find no ACTIVE slot (R16, R17), and the reads (R20, R128 to R130, R132). -/

namespace Sys2Proof.Machine

/-! ### Copies without an ACTIVE slot -/

/-- Settles O17. -/
theorem unknownStreamDropped : Obligations.UnknownStreamDropped := by
  intro s p r h unknown
  have lookup : (s.frameTaken (portOf p)).lookup (frameId r.bytes) = none := State.lookup_none unknown
  have dispatched : (s.frameTaken (portOf p)).dispatch (portOf p) ⟨r.bytes, r.cells⟩ .data =
      (s.frameTaken (portOf p)).dataCopy p ⟨r.bytes, r.cells⟩ := by cases p <;> rfl
  rw [Settles, frameReceived_kind h, dispatched, State.dataCopy, lookup]
  rfl

/-- Settles O18. -/
theorem suspendedCopyDropped : Obligations.SuspendedCopyDropped := by
  intro s p r k st h found suspended
  rw [Settles, dataFrame_found h found, if_pos suspended]
  rfl

/-! ### Requests that are only answered -/

/-- The state in which a request of manager `m` taken at once is judged, with `fr` the free cells once its frame is released: the
turn has begun, the holder's timer restarted (R119, R120). -/
def State.judgedFrom (s : State) (m : Word16) (fr : List CellId) : State :=
  { s with free := fr, agent := { s.agent with busy := true, lease := s.leaseTouched m } }

theorem State.leaseTouched_holder (s : State) (m : Word16) :
    (s.leaseTouched m).map (fun l => l.holder) = s.agent.lease.map (fun l => l.holder) := by
  unfold State.leaseTouched
  cases s.agent.lease <;> rfl

theorem State.leaseTouched_isSome (s : State) (m : Word16) : (s.leaseTouched m).isSome = s.agent.lease.isSome :=
  Option.isSome_map

theorem State.judgedFrom_holds (s : State) (m : Word16) (fr : List CellId) : (s.judgedFrom m fr).holds m = s.holds m :=
  State.holds_congr (s.leaseTouched_holder m)

/-- A request row taken at once is judged there, where its response has room (R108, R119, R120). -/
theorem TakesAtOnce.exec_judged {s : State} {m t : Word16} (h : TakesAtOnce s m t) {c : Instr} {r : Request}
    (ask : Asks m t c r) : ∃ fr, fr.Perm s.free ∧ Roomy (s.judgedFrom m fr) ∧
      ((s.judgedFrom m fr).refusal m r = none →
        exec c s = .next ((s.judgedFrom m fr).execute m t r).settle) := by
  obtain ⟨v, pool, e⟩ := agentRequest_takes h r
  have hv := h.pool pool
  have begun : v.beginTurn.touchLease m = s.judgedFrom m v.free := by
    rw [State.begun_eq, State.judgedFrom]
    conv_lhs => rw [pool.same]
    rfl
  have judged := hv.judged r
  have roomy := hv.roomy
  rw [begun] at judged roomy
  refine ⟨v.free, pool.cells, roomy, fun allowed => ?_⟩
  rw [ask.exec_eq, e, begun, judged, allowed]

/-- A request that no step refuses and that is executed by its answer OK alone is only answered (R119 to R121). -/
theorem TakesAtOnce.onlyAnswered {s : State} {m t : Word16} (h : TakesAtOnce s m t) {c : Instr} {r : Request}
    (ask : Asks m t c r) {code : Byte} {results : List Byte} (short : results.length ≤ 126)
    (allowed : ∀ fr, (s.judgedFrom m fr).refusal m r = none)
    (answered : ∀ fr : List CellId, fr.length = s.free.length →
      (s.judgedFrom m fr).execute m t r = (s.judgedFrom m fr).answer m t code .ok results) :
    OnlyAnswered c s m t ([code, 0#8] ++ results) := by
  obtain ⟨fr, perm, roomy, e⟩ := h.exec_judged ask
  have payload : responsePayload code .ok results = [code, 0#8] ++ results := rfl
  have cells := responseCells_le (payload := [code, 0#8] ++ results) (by simp; omega)
  have holds := s.judgedFrom_holds m fr
  have room : 3 ≤ fr.length := roomy.cells
  refine ⟨fr.take (responseCells ([code, 0#8] ++ results)), fr.drop (responseCells ([code, 0#8] ++ results)), ?_, ?_, ?_⟩
  · rw [List.take_append_drop]
    exact perm
  · rw [List.length_take, Nat.min_eq_left (by omega), responseCells_eq]
  · rw [Settles, e (allowed fr), answered fr perm.length_eq, State.answer_roomy roomy m t code .ok short, holds, payload]
    simp only [cacheable, Bool.and_true]
    rfl

/-! ### The reads -/

theorem marksByte_single (b : Bool) : marksByte [b] = if b = true then 1#8 else 0#8 := by cases b <;> rfl

/-- IDENTIFY reports the same once its take has begun (R128). -/
theorem State.identifyResults_judgedFrom (s : State) (m : Word16) (fr : List CellId) :
    (s.judgedFrom m fr).identifyResults = s.identifyResults := by
  simp only [State.identifyResults, State.judgedFrom, s.leaseTouched_holder, s.leaseTouched_isSome]

/-- READ_PORT_COUNTERS reports the same once its take has begun and its frame is released (R115, R130). -/
theorem State.portCounterResults_judgedFrom (s : State) (m : Word16) {fr : List CellId} (h : fr.length = s.free.length)
    (page : Byte) : (s.judgedFrom m fr).portCounterResults page = s.portCounterResults page := by
  have view : (s.judgedFrom m fr).poolView = s.poolView := by
    unfold State.poolView
    rw [show (s.judgedFrom m fr).free.length = s.free.length from h]
    rfl
  unfold State.portCounterResults
  rw [view]
  rfl

theorem length_identifyResults (s : State) : s.identifyResults.length = 16 := by
  simp [State.identifyResults]

/-- Settles O36: each read is only answered, with what it reports. -/
theorem readsAnswered : Obligations.ReadsAnswered := by
  intro s m t h
  refine ⟨?_, fun slot hs => ?_, fun slot hs => ?_, fun page hp => ?_, fun first hf => ?_⟩
  · have results : s.identifyResults = [0x0C#8, 0x01#8] ++ be16 (s.globals.station.setWidth 16) ++
        [imageCode s.imageState, if s.agent.lease.isSome = true then 1#8 else 0#8] ++ be16 s.generation ++ be32 s.count ++
        be16 ((s.agent.lease.map (fun l => l.holder)).getD 0#16) ++ [byteOf s.staging.length, operationCode s.op] := by
      rw [State.identifyResults, marksByte_single]
      rfl
    rw [← results]
    refine h.onlyAnswered .identify (by rw [length_identifyResults]; decide) (fun fr => ?_) fun fr _ => ?_
    · exact State.refusal_passes (fun _ e => by cases e) (fun _ => rfl) rfl rfl
    · rw [State.execute, State.identifyResults_judgedFrom]
  · refine h.onlyAnswered (.readEntry slot) (by rw [length_entryResults]; decide) (fun fr => ?_) fun fr _ => rfl
    exact State.refusal_passes (fun _ e => by cases e) (fun _ => rfl) rfl (decide_eq_true hs)
  · rw [List.append_assoc]
    refine h.onlyAnswered (.readStreamCounters slot 0#8) ?_ (fun fr => ?_) fun fr _ => rfl
    · rw [List.length_append, length_flatMap_const length_be32, Vector.length_toList, List.length_singleton]
      decide
    · exact State.refusal_passes (fun _ e => by cases e) (fun _ => rfl) rfl (by simp [argumentsOk, hs])
  · refine h.onlyAnswered (.readPortCounters 0#8 page) ?_ (fun fr => ?_) fun fr hfr => ?_
    · exact (length_portCounterResults s page).trans (by decide)
    · exact State.refusal_passes (fun _ e => by cases e) (fun _ => rfl) rfl (by simp [argumentsOk, hp])
    · rw [State.execute, State.runReadPortCounters, if_pos rfl, Reply.answer,
        State.portCounterResults_judgedFrom s m hfr]
  · refine h.onlyAnswered (.readStaging first) ?_ (fun fr => ?_) fun fr _ => rfl
    · exact (length_stagingResults s first.toNat).trans (by decide)
    · exact State.refusal_passes (fun _ e => by cases e) (fun _ => rfl) rfl (decide_eq_true hf)

end Sys2Proof.Machine
end


section
/-! SUPPORT. The TRAFFIC reset in full, and what is on its way after it (R19, R56, R97, R134, R162 to R164). -/

namespace Sys2Proof.Machine

/-! ### Lost counts -/

theorem satAdd16_toNat (x y : Word16) : (satAdd 16 x y).toNat = min 65535 (x.toNat + y.toNat) := by
  unfold satAdd
  split
  · next h =>
    rw [BitVec.toNat_add, Nat.mod_eq_of_lt h]
    omega
  · next h =>
    rw [BitVec.toNat_allOnes]
    omega

/-- The lost counts kept with released notice frames are added back, up to 65535 (R163). -/
theorem reportNotSent_foldl_lost (l : List Queued) (s : State) :
    (l.foldl (fun s x => s.reportNotSent x.origin) s).noticesLost.toNat =
      min 65535 (s.noticesLost.toNat + (l.map (fun x => (keptLost x.origin).toNat)).sum) := by
  induction l generalizing s with
  | nil =>
    have := s.noticesLost.isLt
    simp only [List.foldl_nil, List.map_nil, List.sum_nil]
    omega
  | cons x l ih =>
    have first : (s.reportNotSent x.origin).noticesLost.toNat =
        min 65535 (s.noticesLost.toNat + (keptLost x.origin).toNat) := satAdd16_toNat _ _
    rw [List.foldl_cons, ih, first, List.map_cons, List.sum_cons]
    omega

/-! ### The reset -/

/-- What a TRAFFIC reset leaves of a stream: DISCARDED counted once for each held copy, the running state afresh (R19, R56). -/
def Stream.afterTraffic (n : Nat) (st : Stream) : Stream := (st.bumpTimes .discarded n).trafficReset

/-- The state in which a TRAFFIC reset adds the lost counts back: repair slots discarded, streams afresh. -/
def State.trafficStreams (s : State) : State := s.discardAll.mapAllStreams Stream.trafficReset

theorem State.trafficStreams_stream (s : State) (k : Fin 64) : s.trafficStreams.stream k =
    (s.stream k).map (Stream.afterTraffic (s.holding allRepair (fun h => h.slot == k)).length) := by
  rw [State.trafficStreams, State.stream_mapAllStreams, State.discardAll_eq,
    (State.discardSome_spec _ allRepair_nodup s).1, Option.map_map]
  rfl

/-- Up to there the reset writes the slots, the repair slots and the pool alone. -/
theorem State.trafficStreams_frame (s : State) :
    ∃ sl rp fr, s.trafficStreams = { s with slots := sl, repair := rp, free := fr } := by
  obtain ⟨_, _, _, e⟩ := discardHeld_foldl allRepair s
  unfold State.trafficStreams State.discardAll
  rw [e]
  exact ⟨_, _, _, rfl⟩

theorem State.trafficStreams_held (s : State) (r : Fin 8) : s.trafficStreams.held r = none := by
  rw [State.trafficStreams, State.held_mapAllStreams, State.held_discardAll]

/-- The lost counts kept with the notice frames in the lane or in transmission on L, added up (R163). -/
def State.releasedLost (s : State) : Nat :=
  (((s.port .l).tx.toList ++ s.lane).map (fun x => (keptLost x.origin).toNat)).sum

theorem State.reportReleased_eq (s : State) : ∃ n, s.reportReleased = { s with noticesLost := n } ∧
    n.toNat = min 65535 (s.noticesLost.toNat + s.releasedLost) := by
  obtain ⟨n, e⟩ := reportNotSent_foldl ((s.port .l).tx.toList ++ s.lane) s
  have lost := reportNotSent_foldl_lost ((s.port .l).tx.toList ++ s.lane) s
  rw [e] at lost
  exact ⟨n, e, lost⟩

/-- A TRAFFIC reset, in full (R134). -/
theorem State.trafficReset_eq (s : State) : ∃ sl rp n, s.trafficReset = { s with
      slots := sl, repair := rp, noticesLost := n
      ports := ⟨trafficPort s.ports.f0, trafficPort s.ports.f1, trafficPort s.ports.l⟩
      lane := [], classes := Vector.replicate 4 [], command := ⟨[], []⟩
      free := allCells.filter (fun c => !s.requestCells.contains c) } ∧
    (∀ k : Fin 64, sl[k] = (s.stream k).map (Stream.afterTraffic (s.holding allRepair (fun h => h.slot == k)).length)) ∧
    (∀ r : Fin 8, rp[r] = none) ∧ n.toNat = min 65535 (s.noticesLost.toNat + s.releasedLost) := by
  obtain ⟨sl, rp, fr, e⟩ := s.trafficStreams_frame
  obtain ⟨n, released, lost⟩ := s.trafficStreams.reportReleased_eq
  have streams := s.trafficStreams_stream
  have held := s.trafficStreams_held
  rw [e] at released lost streams held
  refine ⟨sl, rp, n, ?_, streams, held, lost⟩
  have reset : s.trafficReset = { s.trafficStreams.reportReleased with
      ports := ⟨trafficPort s.trafficStreams.reportReleased.ports.f0,
        trafficPort s.trafficStreams.reportReleased.ports.f1, trafficPort s.trafficStreams.reportReleased.ports.l⟩
      lane := [], classes := Vector.replicate 4 [], command := ⟨[], []⟩
      free := allCells.filter (fun c => !s.trafficStreams.reportReleased.requestCells.contains c) } := by
    unfold State.trafficReset State.trafficStreams
    rfl
  rw [reset, e, released]
  rfl

/-! ### What is on its way -/

/-- The frame of a notice record that waited in `s`, under the serial of its turn (R162). -/
def NoticeOf (s : State) (x : Queued) : Prop :=
  ∃ i n lost, s.notices[i]? = some n ∧ x.frame.bytes = mgmtFrame .mgmtNotice s.globals.station
    (s.serial + 1 + BitVec.ofNat 16 i) ([noticeCode n.body] ++ be32 n.time ++ be16 lost ++
      noticeContents s.faults.length s.overflow n.body)

/-- While what follows at once runs its course after a TRAFFIC reset of `s`: the records not yet offered are a tail of those that
waited, every frame on its way up is the response or a notice frame, and the class and field queues are empty. -/
structure OnlyNotices (s : State) (response : List Byte) (v : State) : Prop where
  fed : ∃ i, v.notices = s.notices.drop i ∧ v.serial = s.serial + BitVec.ofNat 16 i
  station : v.globals.station = s.globals.station
  faults : v.faults.length = s.faults.length
  overflow : v.overflow = s.overflow
  way : ∀ x, OnItsWay v x → x.frame.bytes = response ∨ NoticeOf s x
  classes : ∀ c, v.queue (.cls c) = []
  command : ∀ p, v.queue (.command p) = []
  idle : ∀ p : FPort, (v.port (portOf p)).tx = none

variable {s v : State} {response : List Byte}

/-- A notice frame built joins the lane as the frame of the oldest record that waits (R162). -/
theorem OnlyNotices.buildNotice (h : OnlyNotices s response v) {n : NoticeRecord} {rest : List NoticeRecord}
    (hv : v.notices = n :: rest) (cells free : List CellId) :
    OnlyNotices s response (State.buildNotice { v with free := free } n rest cells) := by
  obtain ⟨i, notices, serial⟩ := h.fed
  have cons : s.notices.drop i = n :: rest := notices.symm.trans hv
  have oldest : s.notices[i]? = some n := by
    rw [← List.head?_drop, cons]
    rfl
  have next : s.notices.drop (i + 1) = rest := by
    rw [← List.tail_drop, cons]
    rfl
  refine ⟨⟨i + 1, next.symm, ?_⟩, h.station, h.faults, h.overflow, fun x hx => ?_, h.classes, h.command, h.idle⟩
  · show v.serial + 1 = _
    rw [serial, BitVec.ofNat_add, BitVec.add_assoc]
    rfl
  · rcases hx with hx | hx
    · rcases List.mem_append.1 hx with hx | hx
      · exact h.way x (.inl hx)
      · obtain rfl := List.mem_singleton.1 hx
        refine .inr ⟨i, n, v.noticesLost, oldest, ?_⟩
        show mgmtFrame .mgmtNotice v.globals.station (v.serial + 1) ([noticeCode n.body] ++ be32 n.time ++
          be16 v.noticesLost ++ noticeContents v.faults.length v.overflow n.body) = _
        rw [h.station, h.faults, h.overflow, serial, BitVec.add_assoc, BitVec.add_comm (BitVec.ofNat 16 i),
          ← BitVec.add_assoc]
    · exact h.way x (.inr hx)

theorem OnlyNotices.offerNotices {l : List NoticeRecord} (h : OnlyNotices s response v) (hv : v.notices = l) :
    OnlyNotices s response (offerNotices l v) := by
  induction l generalizing v with
  | nil => exact h
  | cons n rest ih =>
    unfold Machine.offerNotices
    split
    · split
      · next cells v' hg =>
        obtain ⟨_, _, rfl⟩ := State.grant_spec hg
        exact ih (h.buildNotice hv _ _) rfl
      · exact h
    · exact h

/-- With the class and field queues empty a transmitter can only take the head of the lane, on L (R96, R112). -/
theorem OnlyNotices.startTx (h : OnlyNotices s response v) (p : Port) : OnlyNotices s response (v.startTx p) := by
  unfold State.startTx
  split
  · split
    · next q hq =>
      have line : p = .l ∧ q = .lane := by
        have c0 := h.classes 0
        have c1 := h.classes 1
        have c2 := h.classes 2
        have c3 := h.classes 3
        have f0 := h.command .f0
        have f1 := h.command .f1
        cases p with
        | f0 => simp [State.txSource, State.firstQueue, f0] at hq
        | f1 => simp [State.txSource, State.firstQueue, f1] at hq
        | l =>
          simp only [State.txSource, State.firstQueue, c0, c1, c2, c3] at hq
          split at hq
          · simp at hq
          · cases hq
            exact ⟨rfl, rfl⟩
      obtain ⟨rfl, rfl⟩ := line
      unfold State.sendHead
      split
      · exact h
      · next x rest hx =>
        have lane : v.lane = x :: rest := hx
        refine ⟨h.fed, h.station, h.faults, h.overflow, fun y hy => ?_, h.classes, h.command, fun p => ?_⟩
        · rcases hy with hy | hy
          · exact h.way y (.inl (lane ▸ List.mem_cons_of_mem x hy))
          · obtain rfl : x = y := by simpa using hy
            exact h.way x (.inl (lane ▸ List.mem_cons_self))
        · have := h.idle p
          cases p <;> exact this
    · exact h
  · exact h

theorem OnlyNotices.settle (h : OnlyNotices s response v) : OnlyNotices s response v.settle :=
  State.settle_induct (P := OnlyNotices s response) h (fun _ hu => hu.offerNotices rfl) (fun _ p hu => hu.startTx p)

/-- What follows at once touches the egress fields alone (R96, R109, R112). -/
theorem State.settle_egress (v : State) : EgressOnly v v.settle :=
  State.settle_induct (P := EgressOnly v) (.refl v) (fun u hu => hu.trans u.feedNotices_egress)
    (fun u p hu => hu.trans (u.startTx_egress p))

theorem State.startTx_lost (v : State) (p : Port) :
    (v.startTx p).notices = v.notices ∧ (v.startTx p).noticesLost = v.noticesLost := by
  unfold State.startTx
  split
  · split
    · next q _ =>
      unfold State.sendHead
      split
      · exact ⟨rfl, rfl⟩
      · exact ⟨v.setQueue_notices q _, v.setQueue_noticesLost q _⟩
    · exact ⟨rfl, rfl⟩
  · exact ⟨rfl, rfl⟩

/-- With no notice waiting, or L not UP, what follows at once leaves the lost count (R109, R162). -/
theorem State.settle_lost (h : v.notices = [] ∨ v.linkUp .l = false) : v.settle.noticesLost = v.noticesLost := by
  rcases h with h | h
  · refine (State.settle_induct (P := fun u => u.notices = [] ∧ u.noticesLost = v.noticesLost) ⟨h, rfl⟩
      (fun u hu => ?_) fun u p hu => ?_).2
    · rw [State.feedNotices, hu.1]
      exact hu
    · obtain ⟨notices, lost⟩ := u.startTx_lost p
      exact ⟨notices.trans hu.1, lost.trans hu.2⟩
  · refine (State.settle_induct (P := fun u => u.linkUp .l = false ∧ u.noticesLost = v.noticesLost) ⟨h, rfl⟩
      (fun u hu => ?_) fun u p hu => ?_).2
    · have fed : u.feedNotices = u := by
        unfold State.feedNotices
        cases u.notices with
        | nil => rfl
        | cons x r => simp [Machine.offerNotices, hu.1]
      rw [fed]
      exact hu
    · refine ⟨?_, (u.startTx_lost p).2.trans hu.2⟩
      rw [State.linkUp, (u.startTx_egress p).link]
      exact hu.1

/-! ### RESET_PART TRAFFIC -/

/-- The response to RESET_PART TRAFFIC. -/
def State.trafficResponse (s : State) (t : Word16) : List Byte :=
  mgmtFrame .mgmtRsp s.globals.station t [15#8, 0#8]

/-- The part after a TRAFFIC reset of the holder `m`, its response placed, before what follows at once; with the slots, the repair
slots and the lost count the reset leaves (R121, R134). -/
def State.trafficCleared (s : State) (m t : Word16) (sl : Vector (Option Stream) 64) (rp : Vector (Option Held) 8)
    (n : Word16) : State :=
  { s with
    slots := sl, repair := rp, noticesLost := n
    ports := ⟨trafficPort s.ports.f0, trafficPort s.ports.f1, trafficPort s.ports.l⟩
    lane := [⟨⟨s.trafficResponse t, allCells.take 1⟩, .response false⟩]
    classes := Vector.replicate 4 [], command := ⟨[], []⟩
    free := allCells.drop 1
    agent := { s.agent with busy := true, lease := s.leaseTouched m, cache := some ⟨t, [15#8, 0#8]⟩ } }

/-- RESET_PART TRAFFIC of the holder resets, answers OK, and then follows what the part does at once (R134). -/
theorem TakesAtOnce.exec_resetPartTraffic {m t : Word16} (h : TakesAtOnce s m t) (holder : s.holds m = true)
    (op : s.op = .idle) : ∃ sl rp n,
    exec (.resetPartTraffic m t) s = .next (s.trafficCleared m t sl rp n).settle ∧
    (∀ k : Fin 64, sl[k] = (s.stream k).map (Stream.afterTraffic (s.holding allRepair (fun h => h.slot == k)).length)) ∧
    (∀ r : Fin 8, rp[r] = none) ∧ n.toNat = min 65535 (s.noticesLost.toNat + s.releasedLost) := by
  obtain ⟨fr, -, -, e⟩ := h.exec_judged .resetPartTraffic
  have allowed : (s.judgedFrom m fr).refusal m (.resetPart 1#8) = none :=
    State.refusal_none (fun _ e => by cases e) op (.inr ((s.judgedFrom_holds m fr).trans holder)) rfl
  obtain ⟨sl, rp, n, reset, streams, held, lost⟩ := (s.judgedFrom m fr).trafficReset_eq
  refine ⟨sl, rp, n, ?_, streams, held, lost⟩
  have pool : allCells.filter (fun c => !(s.judgedFrom m fr).requestCells.contains c) = allCells := by
    have none : (s.judgedFrom m fr).requestCells = [] := by
      show s.agent.requests.flatMap _ = []
      rw [h.empty]
      rfl
    rw [none]
    exact List.filter_eq_self.2 fun _ _ => rfl
  rw [pool] at reset
  have roomy : Roomy (s.judgedFrom m fr).trafficReset := by
    rw [reset]
    exact ⟨(by decide : cellCount [] + 3 ≤ 16), by rw [length_allCells]; decide⟩
  have holds : (s.judgedFrom m fr).trafficReset.holds m = true := by
    rw [reset]
    exact (s.judgedFrom_holds m fr).trans holder
  have answered : (s.judgedFrom m fr).execute m t (.resetPart 1#8) = s.trafficCleared m t sl rp n := by
    have execute : (s.judgedFrom m fr).execute m t (.resetPart 1#8) =
        (s.judgedFrom m fr).trafficReset.answer m t 15#8 .ok [] := by
      rw [State.execute, if_pos rfl]
    rw [execute, State.answer_roomy roomy m t 15#8 .ok (by decide), holds, reset]
    rfl
  rw [e allowed, answered]

section
variable {m t : Word16} {sl : Vector (Option Stream) 64} {rp : Vector (Option Held) 8} {n : Word16}

/-- Each port is as Table 6-4 leaves it. -/
theorem State.trafficCleared_port (p : Port) : (s.trafficCleared m t sl rp n).port p = trafficPort (s.port p) := by
  cases p <;> rfl

/-- The response alone is on its way before what follows at once. -/
theorem State.trafficCleared_onlyNotices : OnlyNotices s (s.trafficResponse t) (s.trafficCleared m t sl rp n) where
  fed := ⟨0, rfl, (BitVec.add_zero s.serial).symm⟩
  station := rfl
  faults := rfl
  overflow := rfl
  way x hx := by
    rcases hx with hx | hx
    · obtain rfl := List.mem_singleton.1 hx
      exact .inl rfl
    · rw [State.trafficCleared_port] at hx
      cases hx
  classes c := by simp [State.queue, State.trafficCleared]
  command p := by cases p <;> rfl
  idle p := by rw [State.trafficCleared_port]; rfl

end

/-- A stream after a TRAFFIC reset is its old entry with a fresh running state, and DISCARDED counted for its held copies. -/
theorem Stream.afterTraffic_spec (n : Nat) (st : Stream) :
    (st.afterTraffic n).cfg = st.cfg ∧ (st.afterTraffic n).locked = st.locked ∧
    (st.afterTraffic n).suspended = st.suspended ∧ (st.afterTraffic n).history = none ∧
    (st.afterTraffic n).candidate = none ∧ (st.afterTraffic n).paths = ⟨.fresh, .fresh⟩ ∧
    (st.afterTraffic n).credits = st.cfg.burst ∧
    (st.afterTraffic n).intervalTimer =
      (if st.suspended = true ∨ st.cfg.burst = 0#8 then none else some st.cfg.interval) ∧
    (st.afterTraffic n).counter .discarded = (satInc 32)^[n] (st.counter .discarded) ∧
    ∀ c, c ≠ .discarded → (st.afterTraffic n).counter c = st.counter c := by
  have discarded : (st.afterTraffic n).counter .discarded = (satInc 32)^[n] (st.counter .discarded) :=
    Stream.counter_bumpTimes_same .discarded n st
  have others : ∀ c, c ≠ .discarded → (st.afterTraffic n).counter c = st.counter c := fun c hc =>
    Stream.counter_bumpTimes_other hc n st
  refine ⟨?_, ?_, ?_, rfl, rfl, rfl, ?_, ?_, discarded, others⟩
  all_goals rw [Stream.afterTraffic, Stream.bumpTimes_eq]
  · rfl
  · rfl
  · rfl
  · rfl
  · exact startedTimer_eq _ _

/-- Settles O43. -/
theorem trafficReset : Obligations.TrafficReset := by
  intro s m t h holder op response
  obtain ⟨sl, rp, n, e, streams, held, lost⟩ := h.exec_resetPartTraffic holder op
  have egress := (s.trafficCleared m t sl rp n).settle_egress
  have way := (State.trafficCleared_onlyNotices (s := s) (m := m) (t := t) (sl := sl) (rp := rp) (n := n)).settle
  have stream : ∀ k, (s.trafficCleared m t sl rp n).settle.stream k =
      (s.stream k).map (Stream.afterTraffic (s.holding allRepair (fun h => h.slot == k)).length) := fun k =>
    (egress.stream k).trans (streams k)
  have port : ∀ p, (s.trafficCleared m t sl rp n).settle.port p =
      { trafficPort (s.port p) with tx := ((s.trafficCleared m t sl rp n).settle.port p).tx } := fun p =>
    (egress.2 p).trans (by rw [State.trafficCleared_port])
  obtain ⟨-, generation, globals, -, agent, staging, op, faults, -, globalCtrs, banks, -⟩ := egress.same
  refine ⟨_, e, fun k => ?_, fun k st hk => ?_, fun q => (egress.held q).trans (held q), fun p => ?_,
    fun p => ⟨way.idle p, way.command p⟩, way.classes, fun p => ?_,
    ⟨_, rfl, rfl, rfl, fun p => ?_, rfl, rfl⟩, way.way, fun p c => ?_, fun c => ?_, fun quiet => ?_, generation,
    globals, staging, faults, op, banks, fun timer hl => ?_, ?_, ?_⟩
  · rw [stream, Option.isSome_map]
  · refine ⟨_, by rw [stream, hk]; rfl, Stream.afterTraffic_spec _ st⟩
  · rw [port p]
    exact ⟨rfl, rfl⟩
  · rw [port p]
    rfl
  · rw [State.trafficCleared_port]
    rfl
  · rw [State.portCounter, port p]
    rfl
  · rw [State.globalCounter, globalCtrs]
    rfl
  · rw [State.settle_lost]
    · exact lost
    · rw [State.linkUp, State.trafficCleared_port]
      exact quiet
  · rw [agent]
    show s.leaseTouched m = _
    rw [State.leaseTouched, hl]
    simp
  · rw [agent]
    rfl
  · exact ⟨_, OnItsWay.settle (.inl List.mem_cons_self), rfl⟩

end Sys2Proof.Machine
end

section
/-! SUPPORT. The history unit (Chapter 2): distances, the classes of Table 2-1, the recordings of Table 2-3, late-twin marks, and
O22. -/

namespace Sys2Proof.Machine

/-! ### Distances -/

theorem distance_eq (a b : Word16) : distance a b = (65536 - a.toNat + b.toNat) % 65536 := BitVec.toNat_sub b a

@[simp] theorem distance_self (a : Word16) : distance a a = 0 := by simp [distance]

/-- The way back: together the two distances go round once. -/
theorem distance_back {a b : Word16} (h : a ≠ b) : distance b a = 65536 - distance a b := by
  have ha := a.isLt
  have hb := b.isLt
  have hn : a.toNat ≠ b.toNat := fun e => h (BitVec.eq_of_toNat_eq e)
  rw [distance_eq, distance_eq]
  omega

/-! ### Accepted sets -/

theorem History.accepts_iff {h : History} {s : Word16} : h.accepts s = true ↔ s ∈ h.members.map (fun m => m.seq) := by
  simp [History.accepts]

theorem History.not_accepts_iff {h : History} {s : Word16} :
    h.accepts s = false ↔ s ∉ h.members.map (fun m => m.seq) := by
  rw [← History.accepts_iff, Bool.not_eq_true]

/-- An accepted sequence lies within 31 behind top (R21). -/
theorem History.Sound.distance_top {h : History} (hs : h.Sound) {s : Word16} (ha : h.accepts s = true) :
    distance s h.top ≤ 31 := by
  obtain ⟨m, hm, rfl⟩ := List.mem_map.1 (History.accepts_iff.1 ha)
  exact hs.window m hm

/-- A sequence ahead of top is not accepted (R21). -/
theorem History.Sound.not_accepts_ahead {h : History} (hs : h.Sound) {s : Word16} (h1 : 1 ≤ distance h.top s)
    (h2 : distance h.top s ≤ 32767) : h.accepts s = false := by
  by_contra ha
  have near := hs.distance_top (Bool.not_eq_false _ ▸ ha)
  have hne : h.top ≠ s := fun e => by rw [e, distance_self] at h1; omega
  rw [distance_back hne] at near
  omega

/-! ### The classes (Table 2-1) -/

section
variable {h : History} {jump : Nat} {s : Word16}

theorem classify_top (hd : distance h.top s = 0) : classify (some h) jump s = .duplicate := by
  simp only [classify, hd, if_true]

theorem classify_ahead (h1 : 1 ≤ distance h.top s) (h2 : distance h.top s ≤ 32767) :
    classify (some h) jump s = if distance h.top s ≤ jump then .new else .leap := by
  simp only [classify, if_neg (Nat.ne_of_gt h1), if_pos h2]

theorem classify_behind (h1 : 32768 ≤ distance h.top s) (h2 : 65536 - distance h.top s ≤ 31) :
    classify (some h) jump s = if h.accepts s then .duplicate else .new := by
  have hz : ¬ distance h.top s = 0 := by omega
  have ha : ¬ distance h.top s ≤ 32767 := by omega
  simp only [classify, if_neg hz, if_neg ha, if_pos h2]

theorem classify_stale (h1 : 32768 ≤ distance h.top s) (h2 : 32 ≤ 65536 - distance h.top s) :
    classify (some h) jump s = .stale := by
  have hz : ¬ distance h.top s = 0 := by omega
  have ha : ¬ distance h.top s ≤ 32767 := by omega
  have hb : ¬ 65536 - distance h.top s ≤ 31 := by omega
  simp only [classify, if_neg hz, if_neg ha, if_neg hb]

/-! ### The recordings (Table 2-3) -/

variable {mark : Option FPort}

theorem recorded_top (hd : distance h.top s = 0) : recorded (some h) s mark = none := by
  simp only [recorded, hd, if_true]

theorem recorded_ahead (h1 : 1 ≤ distance h.top s) (h2 : distance h.top s ≤ 32767) : recorded (some h) s mark =
    some ⟨s, ⟨s, mark⟩ :: h.members.filter (fun m => decide (distance m.seq s ≤ 31))⟩ := by
  simp only [recorded, if_neg (Nat.ne_of_gt h1), if_pos h2]

theorem recorded_behind (h1 : 32768 ≤ distance h.top s) (h2 : 65536 - distance h.top s ≤ 31) :
    recorded (some h) s mark =
      if h.accepts s then none else some ⟨h.top, insertMember h.top ⟨s, mark⟩ h.members⟩ := by
  have hz : ¬ distance h.top s = 0 := by omega
  have ha : ¬ distance h.top s ≤ 32767 := by omega
  simp only [recorded, if_neg hz, if_neg ha, if_pos h2]

theorem recorded_stale (h1 : 32768 ≤ distance h.top s) (h2 : 32 ≤ 65536 - distance h.top s) :
    recorded (some h) s mark = none := by
  have hz : ¬ distance h.top s = 0 := by omega
  have ha : ¬ distance h.top s ≤ 32767 := by omega
  have hb : ¬ 65536 - distance h.top s ≤ 31 := by omega
  simp only [recorded, if_neg hz, if_neg ha, if_neg hb]

/-- Where `s` may lie from top: on it, ahead of it, within 31 behind it, or further behind (Tables 2-1 and 2-3). -/
theorem distance_cases (h : History) (s : Word16) : distance h.top s = 0 ∨
    (1 ≤ distance h.top s ∧ distance h.top s ≤ 32767) ∨
    (32768 ≤ distance h.top s ∧ 65536 - distance h.top s ≤ 31) ∨
    (32768 ≤ distance h.top s ∧ 32 ≤ 65536 - distance h.top s) := by omega

/-- Putting a member in its place adds it and nothing else. -/
theorem insertMember_perm (top : Word16) (m : Member) (l : List Member) : (insertMember top m l).Perm (m :: l) := by
  induction l with
  | nil => exact .refl _
  | cons x rest ih =>
    unfold insertMember
    split
    · exact .refl _
    · exact (ih.cons x).trans (.swap m x rest)

/-- A recorded history of one sequence is sound (R28). -/
theorem History.sound_single (s : Word16) (mark : Option FPort) : History.Sound ⟨s, [⟨s, mark⟩]⟩ where
  top := by simp [History.accepts]
  window m hm := by
    obtain rfl := List.mem_singleton.1 hm
    simp
  once := List.nodup_singleton _

/-- A recording ahead of top keeps the form of R21: the new top, and of the old members those within 31 behind it. -/
theorem History.Sound.recordAhead (hs : h.Sound) (h1 : 1 ≤ distance h.top s) (h2 : distance h.top s ≤ 32767) :
    History.Sound ⟨s, ⟨s, mark⟩ :: h.members.filter (fun m => decide (distance m.seq s ≤ 31))⟩ where
  top := by simp [History.accepts]
  window m hm := by
    rcases List.mem_cons.1 hm with rfl | hm
    · simp
    · exact of_decide_eq_true (List.mem_filter.1 hm).2
  once := by
    have hn := History.not_accepts_iff.1 (hs.not_accepts_ahead h1 h2)
    have kept := (List.filter_sublist (p := fun m => decide (distance m.seq s ≤ 31)) (l := h.members)).map
      (fun m => m.seq)
    exact List.nodup_cons.2 ⟨fun hm => hn (kept.subset hm), hs.once.sublist kept⟩

/-- A recording behind top keeps the form of R21: one member more. -/
theorem History.Sound.recordBehind (hs : h.Sound) (h1 : 32768 ≤ distance h.top s)
    (h2 : 65536 - distance h.top s ≤ 31) (hn : h.accepts s = false) :
    History.Sound ⟨h.top, insertMember h.top ⟨s, mark⟩ h.members⟩ where
  top := by
    rw [History.accepts_iff]
    exact ((insertMember_perm _ _ _).map _).mem_iff.2 (List.mem_cons_of_mem _ (History.accepts_iff.1 hs.top))
  window m hm := by
    rcases List.mem_cons.1 ((insertMember_perm _ _ _).mem_iff.1 hm) with rfl | hm
    · have hne : h.top ≠ s := fun e => by rw [e, distance_self] at h1; omega
      rw [distance_back hne]
      exact h2
    · exact hs.window m hm
  once := by
    refine ((insertMember_perm _ _ _).map _).nodup_iff.2 ?_
    exact List.nodup_cons.2 ⟨History.not_accepts_iff.1 hn, hs.once⟩

/-- A recording that changes a history keeps it sound (R28). -/
theorem recorded_sound {o : Option History} (ho : ∀ g, o = some g → g.Sound) {h' : History}
    (e : recorded o s mark = some h') : h'.Sound := by
  cases o with
  | none =>
    obtain rfl := Option.some.inj e
    exact History.sound_single s mark
  | some h =>
    have hs := ho h rfl
    rcases distance_cases h s with hd | ⟨h1, h2⟩ | ⟨h1, h2⟩ | ⟨h1, h2⟩
    · rw [recorded_top hd] at e
      cases e
    · rw [recorded_ahead h1 h2] at e
      obtain rfl := Option.some.inj e
      exact hs.recordAhead h1 h2
    · rw [recorded_behind h1 h2] at e
      split at e
      · cases e
      · next hn =>
        obtain rfl := Option.some.inj e
        exact hs.recordBehind h1 h2 (Bool.not_eq_true _ ▸ hn)
    · rw [recorded_stale h1 h2] at e
      cases e

/-- A recording accepts the sequence it records and no other new one (R28). -/
theorem recorded_accepts {o : Option History} {h' : History} (e : recorded o s mark = some h') {x : Word16}
    (hx : h'.accepts x = true) : x = s ∨ accepted o x = true := by
  have mem := History.accepts_iff.1 hx
  cases o with
  | none =>
    obtain rfl := Option.some.inj e
    exact .inl (List.mem_singleton.1 mem)
  | some h =>
    rcases distance_cases h s with hd | ⟨h1, h2⟩ | ⟨h1, h2⟩ | ⟨h1, h2⟩
    · rw [recorded_top hd] at e
      cases e
    · rw [recorded_ahead h1 h2] at e
      obtain rfl := Option.some.inj e
      refine (List.mem_cons.1 mem).imp id fun hm => History.accepts_iff.2 ?_
      exact (List.filter_sublist.map _).subset hm
    · rw [recorded_behind h1 h2] at e
      split at e
      · cases e
      · obtain rfl := Option.some.inj e
        exact (List.mem_cons.1 (((insertMember_perm _ _ _).map _).mem_iff.1 mem)).imp id History.accepts_iff.2
    · rw [recorded_stale h1 h2] at e
      cases e

end

/-! ### The recording of a stream -/

section
variable {st : Stream} {s : Word16} {mark : Option FPort}

theorem Stream.record_changes {h' : History} (e : recorded st.history s mark = some h') :
    st.record s mark = { st with history := some h', candidate := none } := by
  simp only [Stream.record, e]

theorem Stream.record_keeps (e : recorded st.history s mark = none) : st.record s mark = st := by
  simp only [Stream.record, e]

theorem Stream.record_empty (e : st.history = none) :
    st.record s mark = { st with history := some ⟨s, [⟨s, mark⟩]⟩, candidate := none } :=
  Stream.record_changes (by rw [e]; rfl)

/-- A recording keeps a sound history, or an empty one, sound (R28). -/
theorem Stream.record_sound (hs : ∀ h, st.history = some h → h.Sound) {h' : History}
    (e : (st.record s mark).history = some h') : h'.Sound := by
  cases hr : recorded st.history s mark with
  | none =>
    rw [Stream.record_keeps hr] at e
    exact hs h' e
  | some g =>
    rw [Stream.record_changes hr] at e
    obtain rfl := Option.some.inj e
    exact recorded_sound hs hr

/-- A recording makes a stream accept its sequence and no other new one (R28). -/
theorem Stream.record_accepts {x : Word16} (hx : accepted (st.record s mark).history x = true) :
    x = s ∨ accepted st.history x = true := by
  cases hr : recorded st.history s mark with
  | none =>
    rw [Stream.record_keeps hr] at hx
    exact .inr hx
  | some g =>
    rw [Stream.record_changes hr] at hx
    exact recorded_accepts hr hx

end

/-! ### What the classes and the marks say of the accepted set -/

/-- A NEW sequence is not accepted (R25). -/
theorem classify_new_not_accepted {o : Option History} (ho : ∀ g, o = some g → g.Sound) {jump : Nat} {s : Word16}
    (e : classify o jump s = .new) : accepted o s = false := by
  cases o with
  | none => rfl
  | some h =>
    show h.accepts s = false
    rcases distance_cases h s with hd | ⟨h1, h2⟩ | ⟨h1, h2⟩ | ⟨h1, h2⟩
    · rw [classify_top hd] at e
      cases e
    · exact (ho h rfl).not_accepts_ahead h1 h2
    · rw [classify_behind h1 h2] at e
      split at e
      · cases e
      · next hn => exact Bool.not_eq_true _ ▸ hn
    · rw [classify_stale h1 h2] at e
      cases e

/-- No sequence is LEAP for an empty history (R25). -/
theorem classify_leap_history {o : Option History} {jump : Nat} {s : Word16} (e : classify o jump s = .leap) :
    ∃ h, o = some h := by
  cases o with
  | none => cases e
  | some h => exact ⟨h, rfl⟩

/-- Clearing a mark leaves the sequences of the members (R27). -/
theorem clearMark_seqs (s : Word16) (h : History) :
    (clearMark s h).members.map (fun m => m.seq) = h.members.map (fun m => m.seq) := by
  simp only [clearMark, List.map_map]
  refine List.map_congr_left fun m _ => ?_
  simp only [Function.comp_apply]
  split <;> rfl

/-- Clearing a mark keeps the form of R21. -/
theorem History.Sound.clearMark {h : History} (hs : h.Sound) (s : Word16) : (clearMark s h).Sound where
  top := by
    rw [History.accepts_iff, clearMark_seqs]
    exact History.accepts_iff.1 hs.top
  window m hm := by
    have seq : m.seq ∈ h.members.map (fun m => m.seq) := clearMark_seqs s h ▸ List.mem_map_of_mem hm
    exact hs.distance_top (History.accepts_iff.2 seq)
  once := by
    rw [clearMark_seqs]
    exact hs.once

/-- Clearing a mark leaves what is accepted. -/
theorem accepted_clearMark (s : Word16) (o : Option History) (x : Word16) :
    accepted (o.map (clearMark s)) x = accepted o x := by
  cases o with
  | none => rfl
  | some h =>
    show (clearMark s h).accepts x = h.accepts x
    rw [Bool.eq_iff_iff, History.accepts_iff, History.accepts_iff, clearMark_seqs]

/-- Counting a DUPLICATE copy clears a mark at most (R27). -/
theorem Stream.countDuplicate_memory (seq : Word16) (p : FPort) (st : Stream) :
    (st.countDuplicate seq p).candidate = st.candidate ∧
      ((st.countDuplicate seq p).history = st.history ∨
        (st.countDuplicate seq p).history = st.history.map (clearMark seq)) := by
  unfold Stream.countDuplicate
  split
  · exact ⟨rfl, .inr rfl⟩
  · exact ⟨rfl, .inl rfl⟩

/-- Settles O22: the rows of Table 2-1, then those of Table 2-3. -/
theorem historyTables : Obligations.HistoryTables := by
  refine ⟨⟨fun _ _ => rfl, fun h jump s hj => ?_⟩, fun st s mark => ⟨Stream.record_empty, fun h eh hs => ?_⟩⟩
  · refine ⟨classify_top, fun h1 h2 => ?_, fun h1 h2 => ?_, fun h1 h2 ha => ?_, fun h1 h2 ha => ?_, classify_stale⟩
    · rw [classify_ahead h1 (by omega), if_pos h2]
    · rw [classify_ahead (by omega) h2, if_neg (by omega)]
    · rw [classify_behind h1 h2, if_pos ha]
    · rw [classify_behind h1 h2, if_neg (by simp [ha])]
  · refine ⟨fun h' => Stream.record_sound (fun g eg => ?_), fun h1 h2 => ?_, fun h1 h2 hn => ?_, fun hc => ?_⟩
    · obtain rfl := Option.some.inj (eh.symm.trans eg)
      exact hs
    · rw [Stream.record_changes (by rw [eh, recorded_ahead h1 h2])]
      refine ⟨_, rfl, rfl, rfl, fun m => ?_⟩
      rw [List.mem_cons, List.mem_filter, decide_eq_true_eq]
    · rw [Stream.record_changes (by rw [eh, recorded_behind h1 h2, if_neg (by simp [hn])])]
      refine ⟨_, rfl, rfl, rfl, fun m => ?_⟩
      rw [(insertMember_perm _ _ _).mem_iff, List.mem_cons]
    · refine Stream.record_keeps ?_
      rw [eh]
      rcases distance_cases h s with hd | ⟨h1, h2⟩ | ⟨h1, h2⟩ | ⟨h1, h2⟩
      · exact recorded_top hd
      · rcases hc with hd | ha | ⟨hb, _⟩
        · omega
        · rw [hs.not_accepts_ahead h1 h2] at ha
          cases ha
        · omega
      · rcases hc with hd | ha | ⟨_, hf⟩
        · omega
        · rw [recorded_behind h1 h2, if_pos ha]
        · omega
      · exact recorded_stale h1 h2

end Sys2Proof.Machine
end

section
/-! SUPPORT. What the part remembers (R21, R31, R44): operations that remember nothing new, those that record, hold or discard, and
O55. -/

namespace Sys2Proof.Machine

/-! ### Nothing new remembered -/

/-- What a stream remembers: its history and its resync candidate. -/
def Stream.memory (st : Stream) : Option History × Option Candidate := (st.history, st.candidate)

/-- Nothing new is remembered: each stream remembers what it did or nothing at all, and every held copy was held before. -/
structure NothingNew (s t : State) : Prop where
  streams : ∀ k st', t.stream k = some st' →
    st'.memory = (none, none) ∨ ∃ st, s.stream k = some st ∧ st'.memory = st.memory
  held : ∀ r h, t.held r = some h → s.held r = some h

theorem NothingNew.of_eq {s t : State} (slots : t.slots = s.slots) (repair : t.repair = s.repair) : NothingNew s t where
  streams k st' hk := .inr ⟨st', by rwa [State.stream, ← slots], rfl⟩
  held r h hr := by rwa [State.held, ← repair]

theorem NothingNew.refl (s : State) : NothingNew s s := .of_eq rfl rfl

theorem NothingNew.trans {s t u : State} (a : NothingNew s t) (b : NothingNew t u) : NothingNew s u where
  streams k st'' hk := by
    rcases b.streams k st'' hk with e | ⟨st', hk', e⟩
    · exact .inl e
    · exact (a.streams k st' hk').imp e.trans fun ⟨st, hs, e'⟩ => ⟨st, hs, e.trans e'⟩
  held r h hr := a.held r h (b.held r h hr)

theorem EgressOnly.nothingNew {s t : State} (h : EgressOnly s t) : NothingNew s t :=
  .of_eq h.same.1 h.same.2.2.2.1

/-- A part without streams, or with new ones alone, and without held copies. -/
theorem NothingNew.of_blank {s t : State} (streams : ∀ k st, t.stream k = some st → st.memory = (none, none))
    (held : ∀ r, t.held r = none) : NothingNew s t where
  streams k st hk := .inl (streams k st hk)
  held r h hr := by rw [held r] at hr; cases hr

/-- Nothing new remembered keeps what the part remembers. -/
theorem State.Remembers.nothingNew {s t : State} (h : s.Remembers) (n : NothingNew s t) : t.Remembers where
  history k st' g hk hg := by
    rcases n.streams k st' hk with e | ⟨st, hs, e⟩
    · cases hg.symm.trans (congrArg Prod.fst e)
    · exact h.history k st g hs ((congrArg Prod.fst e).symm.trans hg)
  candidate k st' hk hg := by
    rcases n.streams k st' hk with e | ⟨st, hs, e⟩
    · exact congrArg Prod.snd e
    · exact (congrArg Prod.snd e).trans (h.candidate k st hs ((congrArg Prod.fst e).symm.trans hg))
  pending r g st' hr hk := by
    rcases n.streams g.slot st' hk with e | ⟨st, hs, e⟩
    · rw [show st'.history = none from congrArg Prod.fst e]
      rfl
    · rw [show st'.history = st.history from congrArg Prod.fst e]
      exact h.pending r g st (n.held r g hr) hs
  distinct r q g g' hr hq := h.distinct r q g g' (n.held r g hr) (n.held q g' hq)

theorem NotPending.nothingNew {s t : State} {k : Fin 64} {seq : Word16} (h : NotPending s k seq) (n : NothingNew s t) :
    NotPending t k seq := fun q x hx => h q x (n.held q x hx)

/-! ### Updates of one part -/

theorem State.setSlot_nothingNew {s : State} {k : Fin 64} {x : Option Stream}
    (h : ∀ st', x = some st' → st'.memory = (none, none) ∨ ∃ st, s.stream k = some st ∧ st'.memory = st.memory) :
    NothingNew s (s.setSlot k x) where
  streams j st' hj := by
    rw [State.stream_setSlot] at hj
    split at hj
    · next e => exact e ▸ h st' hj
    · exact .inr ⟨st', hj, rfl⟩
  held _ _ hr := hr

/-- A slot's stream changed, its memory kept or lost. -/
theorem State.mapStream_nothingNew (s : State) (k : Fin 64) {f : Stream → Stream}
    (h : ∀ st, (f st).memory = (none, none) ∨ (f st).memory = st.memory) : NothingNew s (s.mapStream k f) := by
  refine State.setSlot_nothingNew fun st' e => ?_
  obtain ⟨st, hs, rfl⟩ := Option.map_eq_some_iff.1 e
  exact (h st).imp id fun hm => ⟨st, hs, hm⟩

/-- Every slot's stream changed, each memory kept or lost. -/
theorem State.mapAllStreams_nothingNew (s : State) {f : Stream → Stream}
    (h : ∀ st, (f st).memory = (none, none) ∨ (f st).memory = st.memory) : NothingNew s (s.mapAllStreams f) where
  streams k st' hk := by
    rw [State.stream_mapAllStreams] at hk
    obtain ⟨st, hs, rfl⟩ := Option.map_eq_some_iff.1 hk
    exact (h st).imp id fun hm => ⟨st, hs, hm⟩
  held _ _ hr := hr

theorem State.bumpStream_nothingNew (s : State) (k : Fin 64) (c : StreamCtr) : NothingNew s (s.bumpStream k c) :=
  s.mapStream_nothingNew k fun _ => .inr rfl

/-- A repair slot is freed. -/
theorem State.freeHeld_nothingNew (s : State) (r : Fin 8) : NothingNew s (s.setHeld r none) where
  streams k st' hk := .inr ⟨st', hk, rfl⟩
  held q h hq := by
    rw [State.held_setHeld] at hq
    split at hq
    · cases hq
    · exact hq

theorem State.setPort_nothingNew (s : State) (p : Port) (x : PortState) : NothingNew s (s.setPort p x) := .of_eq rfl rfl

theorem State.setAgent_nothingNew (s : State) (a : Agent) : NothingNew s (s.setAgent a) := .of_eq rfl rfl

theorem State.returnCells_nothingNew (s : State) (l : List CellId) : NothingNew s (s.returnCells l) := .of_eq rfl rfl

theorem State.release_nothingNew (s : State) (f : Frame) : NothingNew s (s.release f) := s.returnCells_nothingNew _

theorem State.bumpGlobal_nothingNew (s : State) (c : GlobalCtr) : NothingNew s (s.bumpGlobal c) := .of_eq rfl rfl

theorem State.enqueue_nothingNew (s : State) (q : QueueId) (x : Queued) : NothingNew s (s.enqueue q x) :=
  .of_eq (s.setQueue_slots q _) (s.setQueue_repair q _)

theorem State.grant_nothingNew {s s' : State} {n keep : Nat} {cells : List CellId}
    (h : s.grant n keep = some (cells, s')) : NothingNew s s' := by
  obtain ⟨_, _, rfl⟩ := State.grant_spec h
  exact .of_eq rfl rfl

theorem State.grantReceiver_nothingNew {s s' : State} {p : Port} {cells : List CellId}
    (h : s.grantReceiver p = some (cells, s')) : NothingNew s s' := by
  obtain ⟨_, h, _⟩ := State.grantReceiver_spec h
  exact State.grant_nothingNew h

theorem State.raiseNotice_nothingNew (s : State) (b : NoticeBody) : NothingNew s (s.raiseNotice b) := by
  obtain ⟨n, l, g, e, _⟩ := s.raiseNotice_spec b
  rw [e]
  exact .of_eq rfl rfl

theorem State.raiseFault_nothingNew (s : State) (f : FaultInfo) : NothingNew s (s.raiseFault f) := by
  obtain ⟨q, o, n, l, g, e⟩ := s.raiseFault_spec f
  rw [e]
  exact .of_eq rfl rfl

theorem State.detect_nothingNew (s : State) (p : Port) : NothingNew s (s.detect p) := by
  rw [State.detect_spec]
  exact .of_eq rfl rfl

/-! ### Steps 2 to 6 of a resolution, and discards -/

theorem State.enqueueClass_nothingNew (s : State) (k : Fin 64) (c : Fin 4) (f : Frame) :
    NothingNew s (s.enqueueClass k c f) := by
  unfold State.enqueueClass
  split
  · exact (s.enqueue_nothingNew _ _).trans (State.bumpStream_nothingNew _ _ _)
  · exact ((s.release_nothingNew f).trans (State.bumpStream_nothingNew _ _ _)).trans (State.bumpGlobal_nothingNew _ _)

theorem State.forward_nothingNew (s : State) (x : Subject) (f : Frame) (n : Nat) (a b : Bool) :
    NothingNew s (s.forward x f n a b) := by
  have dropped := fun c => (s.release_nothingNew f).trans (State.bumpStream_nothingNew _ x.slot c)
  unfold State.forward
  split
  · exact s.release_nothingNew f
  · split
    · dsimp only
      split
      · refine (s.mapStream_nothingNew _ fun _ => .inr ?_).trans (State.enqueueClass_nothingNew _ _ _ _)
        rfl
      · exact dropped _
    · exact dropped _

theorem State.settleFrame_nothingNew (s : State) (x : Subject) (cfg : StreamConfig) :
    NothingNew s (s.settleFrame x cfg) := by
  unfold State.settleFrame
  split
  · exact s.forward_nothingNew _ _ _ _ _
  · exact ((s.release_nothingNew _).trans (State.bumpStream_nothingNew _ _ _)).trans (State.raiseFault_nothingNew _ _)
  · exact ((s.returnCells_nothingNew _).trans (State.bumpStream_nothingNew _ _ _)).trans
      (State.forward_nothingNew _ _ _ _ _ _)
  · exact (s.bumpStream_nothingNew _ _).trans (State.forward_nothingNew _ _ _ _ _ _)

theorem State.discardHeld_nothingNew (s : State) (r : Fin 8) : NothingNew s (s.discardHeld r) := by
  unfold State.discardHeld
  split
  · exact .refl s
  · exact ((s.freeHeld_nothingNew r).trans (State.release_nothingNew _ _)).trans (State.bumpStream_nothingNew _ _ _)

theorem State.discardStream_nothingNew (s : State) (k : Fin 64) : NothingNew s (s.discardStream k) := by
  refine List.foldlRecOn (motive := NothingNew s) allRepair _ (.refl s) fun u hu r _ => ?_
  split
  · exact hu.trans (u.discardHeld_nothingNew r)
  · exact hu

/-! ### Paths, links and receptions -/

theorem Stream.setPath_memory (p : FPort) (x : Path) (st : Stream) : (st.setPath p x).memory = st.memory := rfl

theorem Stream.pathOnLinkLoss_memory (p : FPort) (now : Word32) (st : Stream) :
    (st.pathOnLinkLoss p now).memory = st.memory := by
  unfold Stream.pathOnLinkLoss
  split <;> rfl

theorem Stream.pathOnLinkUp_memory (p : FPort) (st : Stream) : (st.pathOnLinkUp p).memory = st.memory := by
  unfold Stream.pathOnLinkUp
  split <;> rfl

theorem State.pathsLinkLoss_nothingNew (s : State) (p : FPort) : NothingNew s (s.pathsLinkLoss p) :=
  (s.mapAllStreams_nothingNew fun st => .inr (st.pathOnLinkLoss_memory p _)).trans (State.raiseNotice_nothingNew _ _)

theorem State.pathsLinkUp_nothingNew (s : State) (p : FPort) : NothingNew s (s.pathsLinkUp p) :=
  (s.mapAllStreams_nothingNew fun st => .inr (st.pathOnLinkUp_memory p)).trans (State.raiseNotice_nothingNew _ _)

theorem State.abandon_nothingNew (s : State) (p : Port) (c : PortCtr) : NothingNew s (s.abandon p c) := by
  obtain ⟨fr, e⟩ := s.abandon_frame p c
  rw [e]
  exact .of_eq rfl rfl

theorem State.abandonMalformed_nothingNew (s : State) (p : Port) : NothingNew s (s.abandonMalformed p) := by
  unfold State.abandonMalformed
  split
  · exact (s.abandon_nothingNew p _).trans (State.raiseFault_nothingNew _ _)
  · exact .refl s

theorem State.poolEmpty_nothingNew (s : State) (p : Port) : NothingNew s (s.poolEmpty p) :=
  (s.setPort_nothingNew p _).trans (State.raiseFault_nothingNew _ _)

theorem State.abandonPoolEmpty_nothingNew (s : State) (p : Port) : NothingNew s (s.abandonPoolEmpty p) := by
  unfold State.abandonPoolEmpty
  split
  · exact ((s.setPort_nothingNew p _).trans (State.returnCells_nothingNew _ _)).trans (State.poolEmpty_nothingNew _ p)
  · exact .refl s

theorem State.cutTx_nothingNew (s : State) (p : Port) : NothingNew s (s.cutTx p) := by
  obtain ⟨fr, e, l, eq⟩ := s.cutTx_frame p
  rw [eq]
  exact .of_eq rfl rfl

theorem State.flush_nothingNew (s : State) (q : QueueId) : NothingNew s (s.flush q) :=
  .of_eq (s.flush_flushes q).1.slots (s.flush_flushes q).1.repair

theorem State.dropLine_nothingNew (s : State) : NothingNew s s.dropLine := by
  obtain ⟨-, -, -, -, -, -, slots, repair, -⟩ := s.dropLine_spec
  exact .of_eq slots repair

theorem State.linkComesUp_nothingNew (s : State) (p : Port) : NothingNew s (s.linkComesUp p) := by
  have up := s.setPort_nothingNew p { s.port p with link := .up [] }
  cases p with
  | f0 => exact up.trans (State.pathsLinkUp_nothingNew _ .f0)
  | f1 => exact up.trans (State.pathsLinkUp_nothingNew _ .f1)
  | l => exact up

theorem State.breakRun_nothingNew (s : State) (p : Port) : NothingNew s (s.breakRun p) := by
  unfold State.breakRun
  split
  · exact s.setPort_nothingNew p _
  · exact .refl s
  · exact .refl s

theorem State.beginReception_nothingNew (s : State) (p : Port) : NothingNew s (s.beginReception p) := by
  unfold State.beginReception
  split
  · next h => exact (State.grantReceiver_nothingNew h).trans (State.setPort_nothingNew _ _ _)
  · exact s.poolEmpty_nothingNew p

theorem State.dataByte_nothingNew (s : State) (p : Port) (b : Byte) : NothingNew s (s.dataByte p b) := by
  unfold State.dataByte
  split
  · exact .refl s
  · split
    · exact s.abandonMalformed_nothingNew p
    · split
      · split
        · next h => exact (State.grantReceiver_nothingNew h).trans (State.setPort_nothingNew _ _ _)
        · exact s.abandonPoolEmpty_nothingNew p
      · exact s.setPort_nothingNew p _

theorem State.alignmentWord_nothingNew (s : State) (p : Port) (a : Bool) : NothingNew s (s.alignmentWord p a) := by
  unfold State.alignmentWord
  split
  · exact .refl s
  · dsimp only
    split
    · exact s.linkComesUp_nothingNew p
    · exact s.setPort_nothingNew p _
  · exact s.abandonMalformed_nothingNew p

theorem State.alignmentTimeout_nothingNew (s : State) (p : Port) : NothingNew s (s.alignmentTimeout p) := by
  unfold State.alignmentTimeout
  split
  · exact (s.setPort_nothingNew p _).trans (State.detect_nothingNew _ p)
  · exact .refl s
  · exact .refl s

theorem State.headerError_nothingNew (s : State) (p : Port) (f : Frame) : NothingNew s (s.headerError p f) :=
  ((s.release_nothingNew f).trans (State.setPort_nothingNew _ p _)).trans (State.raiseFault_nothingNew _ _)

theorem State.fieldControl_nothingNew (s : State) (p : FPort) (f : Frame) : NothingNew s (s.fieldControl p f) :=
  ((s.release_nothingNew f).trans (State.bumpGlobal_nothingNew _ _)).trans (State.raiseFault_nothingNew _ _)

theorem State.passThrough_nothingNew (s : State) (f : Frame) : NothingNew s (s.passThrough f) := by
  unfold State.passThrough
  split
  · exact s.enqueue_nothingNew _ _
  · exact .of_eq rfl rfl

theorem State.offerCommand_nothingNew (s : State) (p : FPort) (f : Frame) : NothingNew s (s.offerCommand p f) := by
  unfold State.offerCommand
  split
  · exact s.enqueue_nothingNew _ _
  · exact s.bumpGlobal_nothingNew _

theorem State.sendToField_nothingNew (s : State) (f : Frame) : NothingNew s (s.sendToField f) := by
  have offered := (s.offerCommand_nothingNew .f0 f).trans (State.offerCommand_nothingNew _ .f1 f)
  unfold State.sendToField
  dsimp only
  split
  · exact offered
  · exact offered.trans (State.release_nothingNew _ f)

/-! ### Timers and transmissions -/

theorem State.pathTimeout_nothingNew (s : State) (k : Fin 64) (p : FPort) : NothingNew s (s.pathTimeout k p) := by
  unfold State.pathTimeout
  split
  · exact (s.mapStream_nothingNew k fun st => .inr (st.setPath_memory p _)).trans (State.raiseNotice_nothingNew _ _)
  · exact .refl s

theorem State.intervalTimeout_nothingNew (s : State) (k : Fin 64) : NothingNew s (s.intervalTimeout k) := by
  unfold State.intervalTimeout
  split
  · exact s.mapStream_nothingNew k fun _ => .inr rfl
  · exact .refl s

theorem State.releaseShared_nothingNew (s : State) (p : FPort) (f : Frame) : NothingNew s (s.releaseShared p f) := by
  unfold State.releaseShared
  split
  · exact .refl s
  · exact s.release_nothingNew f

theorem State.releaseTx_nothingNew (s : State) (p : Port) (f : Frame) : NothingNew s (s.releaseTx p f) := by
  cases p with
  | f0 => exact s.releaseShared_nothingNew .f0 f
  | f1 => exact s.releaseShared_nothingNew .f1 f
  | l => exact s.release_nothingNew f

theorem State.finishTx_nothingNew (s : State) (p : Port) (f : Frame) : NothingNew s (s.finishTx p f) :=
  ((s.setPort_nothingNew p _).trans (State.releaseTx_nothingNew _ p f)).trans (State.setPort_nothingNew _ p _)

/-! ### Resets -/

/-- A part just cleared has no streams and holds no copies (R168). -/
theorem State.cleared_nothingNew (s : State) (ph : Phase) : NothingNew s (s.cleared ph) :=
  .of_blank (fun k st hk => by cases (reset_stream k).symm.trans hk) reset_held

/-- A reset loads new streams alone and holds no copies (R18, R168). -/
theorem State.takeReset_nothingNew (s : State) : NothingNew s s.takeReset := by
  have fresh := s.takeReset_fresh
  refine .of_blank (fun k st hk => ?_) fresh.repair
  cases hb : newestBank s.banks with
  | none =>
    rw [(fresh.empty hb).1] at hk
    cases hk
  | some bk =>
    rw [(fresh.loaded bk hb).1] at hk
    obtain ⟨suspended, rfl⟩ := loadSlot_new hk
    rfl

/-- A TRAFFIC reset empties every history and every repair slot (R19, R56). -/
theorem State.trafficReset_nothingNew (s : State) : NothingNew s s.trafficReset := by
  obtain ⟨sl, rp, n, e, streams, held, -⟩ := s.trafficReset_eq
  rw [e]
  refine .of_blank (fun k st hk => ?_) held
  obtain ⟨st, -, rfl⟩ := Option.map_eq_some_iff.1 ((streams k).symm.trans hk)
  rfl

theorem Stream.startTimer_memory (st : Stream) :
    st.startTimer.memory = (none, none) ∨ st.startTimer.memory = st.memory := .inr rfl

/-- The end of the start-up load starts interval timers (R168). -/
theorem State.endLoad_nothingNew (s : State) : NothingNew s s.endLoad := by
  obtain ⟨time, fx, -, -, e⟩ := s.stampLoadFault_spec
  have stamped : NothingNew s { s.stampLoadFault with phase := .running } := by
    rw [e]
    exact .of_eq rfl rfl
  exact (((stamped.trans (State.mapAllStreams_nothingNew _ Stream.startTimer_memory)).trans
    (State.detect_nothingNew _ .f0)).trans (State.detect_nothingNew _ .f1)).trans (State.detect_nothingNew _ .l)

/-! ### The agent -/

theorem State.place_nothingNew (s : State) (t : Word16) (payload : List Byte) : NothingNew s (s.place t payload) := by
  obtain ⟨ln, fr, g, e⟩ := s.place_frame t payload
  rw [e]
  exact .of_eq rfl rfl

theorem State.answer_nothingNew (s : State) (m t : Word16) (code : Byte) (st : Status) (results : List Byte) :
    NothingNew s (s.answer m t code st results) := by
  obtain ⟨ln, fr, g, c, e⟩ := s.answer_frame m t code st results
  rw [e]
  exact .of_eq rfl rfl

theorem Reply.answer_nothingNew {s : State} {r : Reply} (h : NothingNew s r.state) (m t : Word16) (code : Byte) :
    NothingNew s (r.answer m t code) := h.trans (State.answer_nothingNew _ _ _ _ _ _)

theorem State.runOpenSession_nothingNew (s : State) (m : Word16) : NothingNew s (s.runOpenSession m).state := by
  unfold State.runOpenSession
  split
  · exact s.setAgent_nothingNew _
  · split <;> exact .refl s

theorem State.runCloseSession_nothingNew (s : State) (m : Word16) : NothingNew s (s.runCloseSession m).state := by
  unfold State.runCloseSession
  split
  · exact .of_eq rfl rfl
  · exact .refl s

theorem State.runReadStreamCounters_nothingNew (s : State) (a b : Byte) :
    NothingNew s (s.runReadStreamCounters a b).state := by
  unfold State.runReadStreamCounters
  dsimp only
  split
  · exact .refl s
  · refine s.mapStream_nothingNew _ fun _ => .inr ?_
    rfl

theorem State.runReadPortCounters_nothingNew (s : State) (a b : Byte) :
    NothingNew s (s.runReadPortCounters a b).state := by
  unfold State.runReadPortCounters State.clearPage
  split
  · exact .refl s
  · dsimp only
    split <;> exact .of_eq rfl rfl

theorem State.runStageEntry_nothingNew (s : State) (a b c : Byte) (rec : EntryRecord) :
    NothingNew s (s.runStageEntry a b c rec).state := by
  unfold State.runStageEntry
  dsimp only
  generalize (if c = 1#8 then some (entryFields rec) else none) = fields
  split
  · exact .refl s
  · split
    · exact .refl s
    · split
      · exact .refl s
      · split
        · exact .of_eq rfl rfl
        · exact .refl s

theorem State.runStageGlobals_nothingNew (s : State) (rec : GlobalsRecord) :
    NothingNew s (s.runStageGlobals rec).state := by
  unfold State.runStageGlobals
  split
  · exact .refl s
  · split
    · exact .of_eq rfl rfl
    · exact .refl s

theorem State.runCommit_nothingNew (s : State) (m : Word16) : NothingNew s (s.runCommit m).state := by
  unfold State.runCommit
  split
  · exact .refl s
  · exact .of_eq rfl rfl

theorem State.runSaveImage_nothingNew (s : State) (m : Word16) : NothingNew s (s.runSaveImage m).state := by
  unfold State.runSaveImage
  split
  · exact .refl s
  · exact .of_eq rfl rfl

theorem State.runSealImage_nothingNew (s : State) (m : Word16) : NothingNew s (s.runSealImage m).state := by
  unfold State.runSealImage
  cases s.imageState <;> exact .of_eq rfl rfl

theorem State.runResetFull_nothingNew (s : State) (m t : Word16) (code : Byte) :
    NothingNew s (s.runResetFull m t code) := by
  rcases s.runResetFull_cases m t code with e | ⟨ln, fr, c, e⟩
  · rw [e]
    exact s.takeReset_nothingNew
  · rw [e]
    exact .of_eq rfl rfl

/-- No request makes the part remember anything new: a TRAFFIC or a FULL reset forgets (R19, R120). -/
theorem State.execute_nothingNew (s : State) (m t : Word16) (r : Request) : NothingNew s (s.execute m t r) := by
  cases r with
  | identify => exact s.answer_nothingNew _ _ _ _ _
  | openSession => exact Reply.answer_nothingNew (s.runOpenSession_nothingNew m) _ _ _
  | closeSession => exact Reply.answer_nothingNew (s.runCloseSession_nothingNew m) _ _ _
  | readEntry slot => exact s.answer_nothingNew _ _ _ _ _
  | readStreamCounters a b => exact Reply.answer_nothingNew (s.runReadStreamCounters_nothingNew a b) _ _ _
  | readPortCounters a b => exact Reply.answer_nothingNew (s.runReadPortCounters_nothingNew a b) _ _ _
  | readFaults n =>
    have read : NothingNew s (s.runReadFaults n).state := .of_eq rfl rfl
    exact Reply.answer_nothingNew read _ _ _
  | stageEntry a b c rec => exact Reply.answer_nothingNew (s.runStageEntry_nothingNew a b c rec) _ _ _
  | stageGlobals rec => exact Reply.answer_nothingNew (s.runStageGlobals_nothingNew rec) _ _ _
  | readStaging first => exact s.answer_nothingNew _ _ _ _ _
  | discardStaging =>
    have emptied : NothingNew s { s with staging := [] } := .of_eq rfl rfl
    exact emptied.trans (State.answer_nothingNew _ _ _ _ _ _)
  | commit => exact Reply.answer_nothingNew (s.runCommit_nothingNew m) _ _ _
  | saveImage => exact Reply.answer_nothingNew (s.runSaveImage_nothingNew m) _ _ _
  | sealImage => exact Reply.answer_nothingNew (s.runSealImage_nothingNew m) _ _ _
  | resetPart kind =>
    show NothingNew s (ite _ _ _)
    split
    · exact s.trafficReset_nothingNew.trans (State.answer_nothingNew _ _ _ _ _ _)
    · exact s.runResetFull_nothingNew _ _ _
  | unknown code => exact s.answer_nothingNew _ _ _ _ _

theorem State.takeRequest_nothingNew (s : State) (m t : Word16) (r : Request) :
    NothingNew s (s.takeRequest m t r) := by
  have begun : NothingNew s (s.beginTurn.touchLease m) := by
    rw [State.begun_eq]
    exact .of_eq rfl rfl
  unfold State.takeRequest State.judge
  refine begun.trans ?_
  split
  · exact State.place_nothingNew _ _ _
  · split
    · exact State.answer_nothingNew _ _ _ _ _ _
    · exact State.execute_nothingNew _ _ _ _

theorem State.takeFrame_nothingNew (s : State) (f : List Byte) : NothingNew s (s.takeFrame f) := by
  unfold State.takeFrame
  split
  · exact s.takeRequest_nothingNew _ _ _
  · exact (s.setAgent_nothingNew _).trans (State.place_nothingNew _ _ _)

theorem State.runAgent_nothingNew (s : State) : NothingNew s s.runAgent := by
  unfold State.runAgent
  split
  · split
    · exact ((s.setAgent_nothingNew _).trans (State.release_nothingNew _ _)).trans (State.takeFrame_nothingNew _ _)
    · exact .refl s
  · exact .refl s

theorem State.consumeRequest_nothingNew (s : State) (f : Frame) : NothingNew s (s.consumeRequest f) := by
  refine NothingNew.trans ?_ (State.runAgent_nothingNew _)
  unfold State.offerRequest
  split <;> exact .of_eq rfl rfl

theorem State.requestComes_nothingNew {s : State} {bytes : List Byte} {take : State → State}
    (h : ∀ v, NothingNew v (take v)) : NothingNew s (s.requestComes bytes take) := by
  unfold State.requestComes
  split
  · next hg =>
    have granted := State.grant_nothingNew hg
    split
    · exact (granted.trans (State.release_nothingNew _ _)).trans (h _)
    · exact granted.trans (State.consumeRequest_nothingNew _ _)
  · exact s.poolEmpty_nothingNew _

theorem State.endTurn_nothingNew (s : State) : NothingNew s s.endTurn := by
  unfold State.endTurn
  split
  · exact (s.setAgent_nothingNew _).trans (State.runAgent_nothingNew _)
  · exact .refl s

theorem State.leaseTimeout_nothingNew (s : State) : NothingNew s s.leaseTimeout := by
  unfold State.leaseTimeout
  split
  · have ended : NothingNew s s.endLease := .of_eq rfl rfl
    exact ended.trans (State.raiseNotice_nothingNew _ _)
  · exact .refl s

/-! ### Commits, saves and seals -/

/-- What an action makes of a slot: a new stream, or the old one with its memory kept or lost (R146 to R149). -/
theorem slotAfter_memory {act : Action} {f : Option EntryFields} {x : Option Stream} {st' : Stream}
    (e : slotAfter act f x = some st') :
    st'.memory = (none, none) ∨ ∃ st, x = some st ∧ st'.memory = st.memory := by
  cases act with
  | install =>
    unfold slotAfter at e
    dsimp only at e
    split at e
    · obtain rfl := Option.some.inj e
      exact .inl rfl
    · exact .inr ⟨st', e, rfl⟩
  | modify =>
    unfold slotAfter at e
    dsimp only at e
    split at e
    · obtain ⟨st, hs, rfl⟩ := Option.map_eq_some_iff.1 e
      exact .inr ⟨st, hs, rfl⟩
    · exact .inr ⟨st', e, rfl⟩
  | retire => cases e
  | suspend =>
    obtain ⟨st, hs, rfl⟩ := Option.map_eq_some_iff.1 e
    exact .inr ⟨st, hs, rfl⟩
  | resume =>
    obtain ⟨st, hs, rfl⟩ := Option.map_eq_some_iff.1 e
    exact .inl rfl
  | lock =>
    obtain ⟨st, hs, rfl⟩ := Option.map_eq_some_iff.1 e
    exact .inr ⟨st, hs, rfl⟩

theorem State.applyRecord_nothingNew (s : State) (r : Staged) : NothingNew s (s.applyRecord r) := by
  cases r with
  | globals f => exact .of_eq rfl rfl
  | entry k act f =>
    unfold State.applyRecord
    dsimp only
    split
    · exact (s.discardStream_nothingNew k).trans (State.setSlot_nothingNew fun _ => slotAfter_memory)
    · exact State.setSlot_nothingNew fun _ => slotAfter_memory

theorem State.endCommit_nothingNew (s : State) (l : List Staged) (m : Word16) : NothingNew s (s.endCommit l m) := by
  have applied : NothingNew s (l.foldl State.applyRecord s) :=
    List.foldlRecOn (motive := NothingNew s) l _ (.refl s) fun u hu r _ => hu.trans (u.applyRecord_nothingNew r)
  unfold State.endCommit
  dsimp only
  refine NothingNew.trans ?_ (State.raiseNotice_nothingNew _ _)
  split
  · exact applied.trans (.of_eq rfl rfl)
  · exact .of_eq rfl rfl

theorem State.commitEnds_nothingNew (s : State) : NothingNew s s.commitEnds := by
  unfold State.commitEnds
  split
  · exact s.endCommit_nothingNew _ _
  all_goals exact .refl s

theorem State.eraseEnds_nothingNew (s : State) : NothingNew s s.eraseEnds := by
  unfold State.eraseEnds
  split
  · split
    · exact .of_eq rfl rfl
    · exact .refl s
  · exact .refl s

theorem State.writeEnds_nothingNew (s : State) : NothingNew s s.writeEnds := by
  unfold State.writeEnds
  split
  · split
    · exact .of_eq rfl rfl
    · exact .refl s
  · exact .refl s

theorem State.readBackEnds_nothingNew (s : State) (j : BankJob) (misread : List (Nat × Byte))
    (notice : Bool → ImageState → NoticeBody) : NothingNew s (s.readBackEnds j misread notice) := by
  obtain ⟨q, o, n, l, g, ls, fx, e⟩ := s.readBackEnds_spec j misread notice
  rw [e]
  exact .of_eq rfl rfl

theorem State.saveEnds_nothingNew (s : State) (misread : List (Nat × Byte)) : NothingNew s (s.saveEnds misread) := by
  rcases s.saveEnds_cases misread with e | ⟨j, notice, -, -, e⟩
  · rw [e]
    exact .refl s
  · rw [e]
    exact s.readBackEnds_nothingNew j misread notice

theorem State.sealEnds_nothingNew (s : State) (misread : List (Nat × Byte)) : NothingNew s (s.sealEnds misread) := by
  rcases s.sealEnds_cases misread with e | ⟨j, notice, -, -, e⟩
  · rw [e]
    exact .refl s
  · rw [e]
    exact s.readBackEnds_nothingNew j misread notice

end Sys2Proof.Machine
end

section
/-! SUPPORT. What the part remembers through copies, resolutions and link losses (Chapters 2 to 4), and O55. -/

namespace Sys2Proof.Machine

variable {s : State} {k : Fin 64} {seq : Word16}

/-! ### Recording, marking and holding -/

/-- The streams after one slot's is changed: that one, or one as before. -/
theorem State.mapStream_cases {f : Stream → Stream} {j : Fin 64} {st' : Stream}
    (e : (s.mapStream k f).stream j = some st') :
    (j = k ∧ ∃ st, s.stream k = some st ∧ st' = f st) ∨ s.stream j = some st' := by
  rw [State.mapStream_eq, State.stream_setSlot] at e
  split at e
  · next hj =>
    obtain ⟨st, hs, rfl⟩ := Option.map_eq_some_iff.1 e
    exact .inl ⟨hj, st, hs, rfl⟩
  · exact .inr e

/-- A slot's stream changed: what it then remembers is in the form of R21 and R31, and accepts no pending pair. -/
theorem State.Remembers.mapStream (h : s.Remembers) {f : Stream → Stream}
    (history : ∀ st, s.stream k = some st → ∀ g, (f st).history = some g → g.Sound)
    (candidate : ∀ st, s.stream k = some st → (f st).history = none → (f st).candidate = none)
    (pending : ∀ st, s.stream k = some st → ∀ r x, s.held r = some x → x.slot = k →
      accepted (f st).history x.seq = false) : (s.mapStream k f).Remembers where
  history j st' g e hg := by
    rcases State.mapStream_cases e with ⟨-, st, hs, rfl⟩ | e
    · exact history st hs g hg
    · exact h.history j st' g e hg
  candidate j st' e hg := by
    rcases State.mapStream_cases e with ⟨-, st, hs, rfl⟩ | e
    · exact candidate st hs hg
    · exact h.candidate j st' e hg
  pending r x st' hr e := by
    rcases State.mapStream_cases e with ⟨hk, st, hs, rfl⟩ | e
    · exact pending st hs r x hr hk
    · exact h.pending r x st' hr e
  distinct := h.distinct

/-- Recording a pair that is not pending keeps what the part remembers (R28, R44). -/
theorem State.Remembers.record (h : s.Remembers) (hn : NotPending s k seq) (mark : Option FPort) :
    (s.mapStream k (Stream.record seq mark)).Remembers := by
  refine h.mapStream (fun st hs g => Stream.record_sound (fun g' => h.history k st g' hs)) (fun st hs e => ?_)
    (fun st hs r x hr hk => ?_)
  · cases hr : recorded st.history seq mark with
    | none =>
      rw [Stream.record_keeps hr] at e ⊢
      exact h.candidate k st hs e
    | some g =>
      rw [Stream.record_changes hr] at e
      cases e
  · by_contra ha
    rcases Stream.record_accepts (Bool.not_eq_false _ ▸ ha) with e | e
    · exact hn r x hr ⟨hk, e⟩
    · subst hk
      rw [h.pending r x st hr hs] at e
      cases e

/-- Counting a DUPLICATE copy keeps what the part remembers (R27). -/
theorem State.Remembers.countDuplicate (h : s.Remembers) (p : FPort) :
    (s.mapStream k (Stream.countDuplicate seq p)).Remembers := by
  refine h.mapStream (fun st hs g e => ?_) (fun st hs e => ?_) (fun st hs r x hr hk => ?_)
  · rcases (st.countDuplicate_memory seq p).2 with e' | e' <;> rw [e'] at e
    · exact h.history k st g hs e
    · obtain ⟨g', hg', rfl⟩ := Option.map_eq_some_iff.1 e
      exact (h.history k st g' hs hg').clearMark seq
  · obtain ⟨candidate, e' | e'⟩ := st.countDuplicate_memory seq p <;> rw [e'] at e <;> rw [candidate]
    · exact h.candidate k st hs e
    · exact h.candidate k st hs (Option.map_eq_none_iff.1 e)
  · subst hk
    have old := h.pending r x st hr hs
    rcases (st.countDuplicate_memory seq p).2 with e | e <;> rw [e]
    · exact old
    · rw [accepted_clearMark]
      exact old

/-- A candidate may be kept beside a history that is not empty (R31). -/
theorem State.Remembers.setCandidate (h : s.Remembers) (some_history : ∀ st, s.stream k = some st → st.history ≠ none)
    (x : Option Candidate) : (s.mapStream k (Stream.setCandidate x)).Remembers :=
  h.mapStream (fun st hs g e => h.history k st g hs e) (fun st hs e => absurd e (some_history st hs))
    fun st hs r y hr hk => h.pending r y st hr (hk ▸ hs)

/-- Holding a copy whose pair is neither pending nor accepted keeps what the part remembers (R44). -/
theorem State.Remembers.hold (h : s.Remembers) (r : Fin 8) {x : Held} (hn : NotPending s x.slot x.seq)
    (ha : ∀ st, s.stream x.slot = some st → accepted st.history x.seq = false) :
    (s.setHeld r (some x)).Remembers where
  history := h.history
  candidate := h.candidate
  pending q y st hq hs := by
    rw [State.held_setHeld] at hq
    split at hq
    · obtain rfl := Option.some.inj hq
      exact ha st hs
    · exact h.pending q y st hq hs
  distinct q q' y y' hq hq' hk hs := by
    rw [State.held_setHeld] at hq hq'
    split at hq
    · next e =>
      split at hq'
      · next e' => exact e.trans e'.symm
      · obtain rfl := Option.some.inj hq
        exact absurd ⟨hk.symm, hs.symm⟩ (hn q' y' hq')
    · split at hq'
      · obtain rfl := Option.some.inj hq'
        exact absurd ⟨hk, hs⟩ (hn q y hq)
      · exact h.distinct q q' y y' hq hq' hk hs

/-! ### Resolutions -/

/-- A resolution of a pair that is not pending keeps what the part remembers (R61, R62). -/
theorem State.Remembers.resolve (h : s.Remembers) {x : Subject} (hn : NotPending s x.slot x.seq) :
    (s.resolve x).Remembers := by
  unfold State.resolve
  split
  · exact h.nothingNew (s.release_nothingNew _)
  · exact (h.record hn x.mark).nothingNew (State.settleFrame_nothingNew _ _ _)

/-- The pair of a repair slot just freed is not pending: no pair is held twice (R44). -/
theorem State.Remembers.notPending_freed (h : s.Remembers) {r : Fin 8} {x : Held} (hr : s.held r = some x) :
    NotPending (s.setHeld r none) x.slot x.seq := fun q y hq e => by
  rw [State.held_setHeld] at hq
  split at hq
  · cases hq
  · next hne => exact hne (h.distinct q r y x hq hr e.1 e.2)

theorem State.Remembers.resolveHeld (h : s.Remembers) (r : Fin 8) (expiry : Bool) :
    (s.resolveHeld r expiry).Remembers := by
  unfold State.resolveHeld
  split
  · exact h
  · next x hr => exact (h.nothingNew (s.freeHeld_nothingNew r)).resolve (h.notPending_freed hr)

theorem State.Remembers.forceResolve (h : s.Remembers) (p : FPort) : (s.forceResolve p).Remembers := by
  refine List.foldlRecOn (motive := State.Remembers) allRepair _ h fun u hu r _ => ?_
  split
  · exact hu.resolveHeld r false
  · exact hu

/-! ### Copies -/

theorem State.dropCopy_nothingNew (s : State) (c : Copy) (ctr : StreamCtr) : NothingNew s (s.dropCopy c ctr) :=
  (s.release_nothingNew _).trans (State.bumpStream_nothingNew _ _ _)

/-- A copy whose pair is pending: dropped, or resolved with the held copy freed (R47 to R50). -/
theorem State.Remembers.meetHeld (h : s.Remembers) {r : Fin 8} {x : Held} (hr : s.held r = some x) {c : Copy}
    (hk : x.slot = c.slot) (hs : x.seq = c.seq) (cfg : StreamConfig) : (s.meetHeld r x c cfg).Remembers := by
  have freed : ∀ f ctr, NothingNew (s.setHeld r none) (((s.setHeld r none).release f).bumpStream c.slot ctr) :=
    fun f ctr => (State.release_nothingNew _ f).trans (State.bumpStream_nothingNew _ _ ctr)
  have resolved : ∀ f ctr (y : Subject), y.slot = x.slot → y.seq = x.seq →
      ((((s.setHeld r none).release f).bumpStream c.slot ctr).resolve y).Remembers := fun f ctr y ek es => by
    refine ((h.nothingNew (s.freeHeld_nothingNew r)).nothingNew (freed f ctr)).resolve ?_
    rw [ek, es]
    exact (h.notPending_freed hr).nothingNew (freed f ctr)
  unfold State.meetHeld
  split
  · exact h.nothingNew (s.dropCopy_nothingNew c _)
  · split
    · exact (h.nothingNew ((s.release_nothingNew _).trans (State.raiseFault_nothingNew _ _))).resolveHeld r false
    · split
      · exact resolved _ _ _ hk.symm hs.symm
      · exact resolved _ _ _ rfl rfl

/-- A damaged NEW copy: held, or resolved at once (R45). -/
theorem State.Remembers.holdOrResolve (h : s.Remembers) {c : Copy} (hn : NotPending s c.slot c.seq)
    (ha : ∀ st, s.stream c.slot = some st → accepted st.history c.seq = false) (st : Stream) :
    (s.holdOrResolve c st).Remembers := by
  unfold State.holdOrResolve
  split
  · split
    · next r _ => exact h.hold r (x := heldCopy c st.cfg) hn ha
    · have full := fun f => (s.bumpGlobal_nothingNew .repairFull).trans (State.raiseFault_nothingNew _ f)
      exact (h.nothingNew (full _)).resolve (hn.nothingNew (full _))
  · exact h.resolve hn

/-- A forced resync: the history emptied, the stream's repair slots discarded, then the copy recorded (R33). -/
theorem State.Remembers.forceResync (h : s.Remembers) {c : Copy} (hn : NotPending s c.slot c.seq) (f : Id12)
    (oldTop : Word16) : (s.forceResync c f oldTop).Remembers := by
  have forced := fun fault notice =>
    ((((s.mapStream_nothingNew c.slot (f := Stream.emptyHistory) fun _ => .inl rfl).trans
      (State.discardStream_nothingNew _ c.slot)).trans (State.bumpStream_nothingNew _ c.slot .resync)).trans
      (State.raiseFault_nothingNew _ fault)).trans (State.raiseNotice_nothingNew _ notice)
  exact (h.nothingNew (forced _ _)).resolve (hn.nothingNew (forced _ _))

theorem State.Remembers.leapCopy (h : s.Remembers) {c : Copy} (hn : NotPending s c.slot c.seq)
    (some_history : ∀ st, s.stream c.slot = some st → st.history ≠ none) (st : Stream) :
    (s.leapCopy c st).Remembers := by
  unfold State.leapCopy
  split
  · dsimp only
    split
    · exact h.forceResync hn _ _
    · exact (h.setCandidate some_history _).nothingNew (State.dropCopy_nothingNew _ c _)
  · exact h.nothingNew (s.dropCopy_nothingNew c _)

/-- A copy whose pair is not pending, classified by its stream's history (R26). -/
theorem State.Remembers.classifyCopy (h : s.Remembers) {c : Copy} (hn : NotPending s c.slot c.seq) {st st' : Stream}
    (hk : s.stream c.slot = some st') (history : st'.history = st.history) : (s.classifyCopy c st).Remembers := by
  have only : ∀ {P : Stream → Prop}, P st' → ∀ st'', s.stream c.slot = some st'' → P st'' := fun hP st'' e =>
    Option.some.inj (hk.symm.trans e) ▸ hP
  unfold State.classifyCopy
  split
  · next e =>
    have ha : accepted st'.history c.seq = false := by
      rw [← history] at e
      exact classify_new_not_accepted (fun g => h.history _ st' g hk) e
    split
    · exact h.resolve hn
    · exact h.holdOrResolve hn (only ha) st
  · exact (h.nothingNew (s.release_nothingNew _)).countDuplicate _
  · exact h.nothingNew (s.dropCopy_nothingNew c _)
  · next e =>
    obtain ⟨g, hg⟩ := classify_leap_history e
    have some_history : st'.history ≠ none := by
      rw [history, hg]
      exact Option.some_ne_none g
    exact h.leapCopy hn (only some_history) st

/-- The repair slot a copy meets holds its pair; where it meets none, the pair is not pending (R43). -/
theorem State.pairSlot_cases (s : State) (k : Fin 64) (seq : Word16) : (s.pairSlot k seq = none ∧ NotPending s k seq) ∨
    ∃ r x, s.pairSlot k seq = some r ∧ s.held r = some x ∧ x.slot = k ∧ x.seq = seq := by
  cases e : s.pairSlot k seq with
  | none =>
    refine .inl ⟨rfl, fun q x hq hx => ?_⟩
    have := List.find?_eq_none.1 e q (mem_allRepair q)
    simp [holdsPair, hq, hx] at this
  | some r =>
    have found := List.find?_some e
    obtain ⟨x, hx, hp⟩ := (Option.any_eq_true _ _).1 found
    simp only [Bool.and_eq_true, beq_iff_eq] at hp
    exact .inr ⟨r, x, rfl, hx, hp⟩

theorem State.Remembers.routeCopy (h : s.Remembers) {c : Copy} {st st' : Stream} (hk : s.stream c.slot = some st')
    (history : st'.history = st.history) : (s.routeCopy c st).Remembers := by
  unfold State.routeCopy
  rcases s.pairSlot_cases c.slot c.seq with ⟨e, hn⟩ | ⟨r, x, e, hr, hslot, hseq⟩
  · simp only [e]
    exact h.classifyCopy hn hk history
  · simp only [e, hr]
    exact h.meetHeld hr hslot hseq st.cfg

theorem State.evidence_nothingNew (s : State) (k : Fin 64) (p : FPort) : NothingNew s (s.evidence k p) := by
  unfold State.evidence
  split
  · exact .refl s
  · next st _ =>
    have up := s.mapStream_nothingNew k (f := Stream.setPath p (.up (some st.cfg.pathTimeout))) fun _ => .inr rfl
    dsimp only
    split
    · exact up.trans (State.raiseNotice_nothingNew _ _)
    · exact up

theorem State.countChecks_nothingNew (s : State) (c : Copy) : NothingNew s (s.countChecks c) := by
  unfold State.countChecks
  split
  · exact (s.bumpStream_nothingNew _ _).trans (State.evidence_nothingNew _ _ _)
  · exact s.bumpStream_nothingNew _ _

/-- The partition checks leave what the copy's stream remembers (R42, R77). -/
theorem State.countChecks_memory {c : Copy} {st : Stream} (hk : s.stream c.slot = some st) :
    ∃ st', (s.countChecks c).stream c.slot = some st' ∧ st'.memory = st.memory := by
  have counted : (s.bumpStream c.slot (checkCounter c)).stream c.slot = some (st.bump (checkCounter c)) := by
    rw [State.bumpStream_eq, State.stream_setSlot_self, hk]
    rfl
  unfold State.countChecks
  split
  · obtain ⟨n, l, g, e⟩ := State.evidence_spec _ counted c.port
    rw [e]
    exact ⟨_, State.stream_setSlot_self _ _ _, rfl⟩
  · exact ⟨_, counted, rfl⟩

/-- A DATA copy from a field port, whatever becomes of it (R15 to R17, R39 to R50). -/
theorem State.Remembers.dataCopy (h : s.Remembers) (p : FPort) (f : Frame) : (s.dataCopy p f).Remembers := by
  unfold State.dataCopy
  split
  · exact h.nothingNew (((s.release_nothingNew f).trans (State.bumpGlobal_nothingNew _ _)).trans
      (State.raiseFault_nothingNew _ _))
  · next k _ =>
    split
    · exact h.nothingNew (s.release_nothingNew f)
    · next st hk =>
      split
      · exact h.nothingNew ((s.release_nothingNew f).trans (State.bumpStream_nothingNew _ _ _))
      · unfold State.activeCopy
        split
        · dsimp only
          obtain ⟨st', hk', e⟩ := State.countChecks_memory (c := ⟨p, k, frameSeq f.bytes,
            goodMap f.bytes (sizeBytes st.cfg.size) (frameCount f.bytes), f⟩) hk
          exact (h.nothingNew (s.countChecks_nothingNew _)).routeCopy hk' (congrArg Prod.fst e)
        · exact h.nothingNew (((s.release_nothingNew f).trans (State.bumpStream_nothingNew _ _ _)).trans
            (State.raiseFault_nothingNew _ _))

/-! ### Received frames and link losses -/

theorem State.dispatchLine_nothingNew (s : State) (f : Frame) (x : Kind) : NothingNew s (s.dispatchLine f x) := by
  cases x with
  | data | mgmtRsp | mgmtNotice => exact .of_eq rfl rfl
  | command => exact s.sendToField_nothingNew f
  | mgmtReq =>
    show NothingNew s (ite _ _ _)
    split
    · exact s.consumeRequest_nothingNew f
    · exact s.sendToField_nothingNew f

theorem State.Remembers.dispatchField (h : s.Remembers) (p : FPort) (f : Frame) (x : Kind) :
    (s.dispatchField p f x).Remembers := by
  cases x with
  | data => exact h.dataCopy p f
  | command | mgmtReq => exact h.nothingNew (s.fieldControl_nothingNew p f)
  | mgmtRsp | mgmtNotice => exact h.nothingNew (s.passThrough_nothingNew f)

theorem State.Remembers.checkAndDispatch (h : s.Remembers) (p : Port) (f : Frame) :
    (s.checkAndDispatch p f).Remembers := by
  unfold State.checkAndDispatch
  split
  · split
    · next x _ =>
      cases p with
      | f0 => exact h.dispatchField .f0 f x
      | f1 => exact h.dispatchField .f1 f x
      | l => exact h.nothingNew (s.dispatchLine_nothingNew f x)
    · exact h.nothingNew (s.headerError_nothingNew p f)
  · exact h.nothingNew (s.headerError_nothingNew p f)

/-- A received frame, from its end marker on (R91, R92). -/
theorem State.Remembers.endMarker (h : s.Remembers) (p : Port) : (s.endMarker p).Remembers := by
  unfold State.endMarker
  split
  · exact h
  · split
    · exact h.nothingNew (s.abandonMalformed_nothingNew p)
    · exact (h.nothingNew ((s.setPort_nothingNew p _).trans (State.setPort_nothingNew _ p _))).checkAndDispatch p _

theorem State.Remembers.bySymbol (h : s.Remembers) {p : Port} {f : State → State} (hf : (f s).Remembers) :
    (s.bySymbol p f).Remembers := by
  unfold State.bySymbol
  split
  · exact h
  · exact h.nothingNew (s.breakRun_nothingNew p)
  · exact hf

/-- The loss of a field link resolves the copies that awaited a twin from it (R53, R98). -/
theorem State.Remembers.fieldLinkLoss (h : s.Remembers) (p : FPort) : (s.fieldLinkLoss p).Remembers := by
  have down := ((((s.setPort_nothingNew (portOf p) { s.port (portOf p) with link := .down }).trans
    (State.abandon_nothingNew _ (portOf p) .aborted)).trans (State.cutTx_nothingNew _ (portOf p))).trans
    (State.flush_nothingNew _ (.command p))).trans (State.pathsLinkLoss_nothingNew _ p)
  exact ((h.nothingNew down).forceResolve (otherPort p)).nothingNew (State.detect_nothingNew _ _)

theorem State.Remembers.linkLoss (h : s.Remembers) (p : Port) : (s.linkLoss p).Remembers := by
  cases p with
  | f0 => exact h.fieldLinkLoss .f0
  | f1 => exact h.fieldLinkLoss .f1
  | l =>
    show s.lineLinkLoss.Remembers
    unfold State.lineLinkLoss
    split
    · exact h.nothingNew (s.dropLine_nothingNew.trans (State.takeReset_nothingNew _))
    · exact h.nothingNew (s.dropLine_nothingNew.trans (State.detect_nothingNew _ _))

theorem State.Remembers.loseSignal (h : s.Remembers) (p : Port) : (s.loseSignal p).Remembers := by
  unfold State.loseSignal
  split
  · exact h
  · exact h.nothingNew (s.setPort_nothingNew p _)
  · exact h.linkLoss p

theorem State.Remembers.lineError (h : s.Remembers) (p : Port) (sub : Nat) : (s.lineError p sub).Remembers := by
  unfold State.lineError
  split
  · exact h
  · exact h.nothingNew (s.breakRun_nothingNew p)
  · have kept := fun x => h.nothingNew ((s.abandonMalformed_nothingNew p).trans (State.setPort_nothingNew _ p x))
    dsimp only
    split
    · exact (kept _).linkLoss p
    · exact kept _

theorem State.endTx_nothingNew (s : State) (p : Port) : NothingNew s (s.endTx p) := by
  unfold State.endTx
  split
  · split
    · exact s.takeReset_nothingNew
    · exact s.finishTx_nothingNew p _
  · exact .refl s

theorem State.takeFullReset_nothingNew (s : State) : NothingNew s s.takeFullReset := by
  unfold State.takeFullReset
  split
  · exact s.takeReset_nothingNew
  · exact .refl s

/-! ### Commands -/

/-- A happening of the running part, and what follows at once. -/
theorem State.Remembers.whenRunning (h : s.Remembers) {f : State → State} (hf : (f s).Remembers) :
    (whenRunning f s).Remembers := by
  by_cases hp : s.phase = .running
  · rw [whenRunning_running hp]
    exact hf.nothingNew (f s).settle_egress.nothingNew
  · rw [whenRunning_stopped hp]
    exact h

/-- A happening of the running part that remembers nothing new. -/
theorem State.Remembers.whenRunning_nothingNew (h : s.Remembers) {f : State → State} (hf : NothingNew s (f s)) :
    (Machine.whenRunning f s).Remembers := h.whenRunning (h.nothingNew hf)

/-- A request row of the table (R119; log 6). -/
theorem State.Remembers.agentRequest (h : s.Remembers) (m t : Word16) (r : Request) :
    (Machine.whenRunning (fun s => s.agentRequest m t r) s).Remembers :=
  h.whenRunning_nothingNew (State.requestComes_nothingNew fun v => v.takeRequest_nothingNew m t r)

/-- A save or seal cut short leaves streams and repair slots (R172). -/
theorem State.interrupt_nothingNew (s : State) : NothingNew s s.interrupt := by
  cases hj : s.op.job? with
  | none =>
    rw [State.interrupt_noJob hj]
    exact .refl s
  | some j =>
    obtain ⟨m, n, e, -⟩ := State.interrupt_job hj
    rw [e]
    exact .of_eq rfl rfl

theorem State.powerUp_nothingNew (s : State) : NothingNew s s.powerUp := by
  unfold State.powerUp
  split
  · exact s.interrupt_nothingNew.trans (State.cleared_nothingNew _ _)
  · exact s.interrupt_nothingNew.trans (State.takeReset_nothingNew _)

theorem State.assertReset_nothingNew (s : State) : NothingNew s s.assertReset := by
  unfold State.assertReset
  split
  · exact .of_eq rfl rfl
  · exact (s.interrupt_nothingNew.trans (State.cleared_nothingNew _ .held)).trans (.of_eq rfl rfl)

theorem State.releaseReset_nothingNew (s : State) (lowNs : Nat) : NothingNew s (s.releaseReset lowNs) := by
  unfold State.releaseReset
  split
  · exact .of_eq rfl rfl
  · split
    · have high : NothingNew s.interrupt { s.interrupt with rstnLow := false } := .of_eq rfl rfl
      exact (s.interrupt_nothingNew.trans high).trans (State.takeReset_nothingNew _)
    · exact .refl s

theorem State.loadEnds_nothingNew (s : State) : NothingNew s s.loadEnds := by
  unfold State.loadEnds
  split
  · exact s.endLoad_nothingNew.trans s.endLoad.settle_egress.nothingNew
  · exact .refl s

theorem State.tick_nothingNew (s : State) : NothingNew s s.tick := by
  unfold State.tick
  split <;> exact .of_eq rfl rfl

/-- Every command that answers keeps what the part remembers: copies, wait expiries and link losses record, hold and resolve; no
other row remembers anything new. -/
theorem State.Remembers.exec (h : s.Remembers) {c : Instr} {t : State} (e : exec c s = .next t) : t.Remembers := by
  have answers : ∀ {u : State}, Machine.exec c s = .next u → u.Remembers → t.Remembers := fun e' hu =>
    Host.Outcome.next.inj (e.symm.trans e') ▸ hu
  cases c with
  | powerOn => exact answers rfl (h.nothingNew s.powerUp_nothingNew)
  | powerLoss => exact answers rfl (h.nothingNew (s.interrupt_nothingNew.trans (State.cleared_nothingNew _ _)))
  | rstnAsserted => exact answers rfl (h.nothingNew s.assertReset_nothingNew)
  | pinReset lowNs => exact answers rfl (h.nothingNew (s.releaseReset_nothingNew lowNs))
  | startUpLoadEnd => exact answers rfl (h.nothingNew s.loadEnds_nothingNew)
  | signalDetected p =>
    exact answers rfl ((h.nothingNew (s.setPort_nothingNew p _)).whenRunning_nothingNew (State.detect_nothingNew _ p))
  | signalLost p =>
    have lost := h.nothingNew (s.setPort_nothingNew p { s.port p with signal := false })
    exact answers rfl (lost.whenRunning (lost.loseSignal p))
  | alignmentWordReceived p ack => exact answers rfl (h.whenRunning_nothingNew (s.alignmentWord_nothingNew p ack))
  | alignmentTimerRunOut p => exact answers rfl (h.whenRunning_nothingNew (s.alignmentTimeout_nothingNew p))
  | lineCodeError p sub => exact answers rfl (h.whenRunning (h.lineError p sub))
  | startMarkerReceived p =>
    have begun := (s.abandonMalformed_nothingNew p).trans (State.beginReception_nothingNew _ p)
    exact answers rfl (h.whenRunning (h.bySymbol (h.nothingNew begun)))
  | dataByteReceived p b => exact answers rfl (h.whenRunning (h.bySymbol (h.nothingNew (s.dataByte_nothingNew p b))))
  | abortMarkerReceived p =>
    exact answers rfl (h.whenRunning (h.bySymbol (h.nothingNew (s.abandonMalformed_nothingNew p))))
  | frameReceived p => exact answers rfl (h.whenRunning (h.bySymbol (h.endMarker p)))
  | waitTimerRunOut r => exact answers rfl (h.whenRunning (h.resolveHeld r true))
  | pathTimerRunOut k p => exact answers rfl (h.whenRunning_nothingNew (s.pathTimeout_nothingNew k p))
  | intervalTimerRunOut k => exact answers rfl (h.whenRunning_nothingNew (s.intervalTimeout_nothingNew k))
  | transmissionStart p => exact answers rfl (h.whenRunning_nothingNew (s.startTx_egress p).nothingNew)
  | transmissionEnd p => exact answers rfl (h.whenRunning_nothingNew (s.endTx_nothingNew p))
  | noticeOffer => exact answers rfl (h.whenRunning_nothingNew s.feedNotices_egress.nothingNew)
  | agentTurnEnd => exact answers rfl (h.whenRunning_nothingNew s.endTurn_nothingNew)
  | badFrame bytes =>
    exact answers rfl (h.whenRunning_nothingNew (State.requestComes_nothingNew fun v => v.takeFrame_nothingNew bytes))
  | unknownRequest m t code => exact answers rfl (h.agentRequest m t _)
  | identify m t => exact answers rfl (h.agentRequest m t _)
  | openSession m t => exact answers rfl (h.agentRequest m t _)
  | closeSession m t => exact answers rfl (h.agentRequest m t _)
  | readEntry m t slot => exact answers rfl (h.agentRequest m t _)
  | readStreamCounters m t slot clear => exact answers rfl (h.agentRequest m t _)
  | readPortCounters m t clear page => exact answers rfl (h.agentRequest m t _)
  | readFaults m t maximum => exact answers rfl (h.agentRequest m t _)
  | stageEntry m t slot action cfgPresent rec => exact answers rfl (h.agentRequest m t _)
  | stageGlobals m t rec => exact answers rfl (h.agentRequest m t _)
  | readStaging m t first => exact answers rfl (h.agentRequest m t _)
  | discardStaging m t => exact answers rfl (h.agentRequest m t _)
  | commit m t => exact answers rfl (h.agentRequest m t _)
  | saveImage m t => exact answers rfl (h.agentRequest m t _)
  | sealImage m t => exact answers rfl (h.agentRequest m t _)
  | resetPartTraffic m t => exact answers rfl (h.agentRequest m t _)
  | resetPartFull m t => exact answers rfl (h.agentRequest m t _)
  | fullReset => exact answers rfl (h.whenRunning_nothingNew s.takeFullReset_nothingNew)
  | commitEnd => exact answers rfl (h.whenRunning_nothingNew s.commitEnds_nothingNew)
  | leaseTimerRunOut => exact answers rfl (h.whenRunning_nothingNew s.leaseTimeout_nothingNew)
  | bankEraseEnd => exact answers rfl (h.whenRunning_nothingNew s.eraseEnds_nothingNew)
  | bankWriteEnd => exact answers rfl (h.whenRunning_nothingNew s.writeEnds_nothingNew)
  | saveEnd misread =>
    cases hm : badAddress misread with
    | some a => simp [Machine.exec, execSaveEnd, hm] at e
    | none =>
      refine answers ?_ (h.whenRunning_nothingNew (f := fun s => s.saveEnds misread) (s.saveEnds_nothingNew misread))
      simp only [Machine.exec, execSaveEnd, hm]
  | sealEnd misread =>
    cases hm : badAddress misread with
    | some a => simp [Machine.exec, execSealEnd, hm] at e
    | none =>
      refine answers ?_ (h.whenRunning_nothingNew (f := fun s => s.sealEnds misread) (s.sealEnds_nothingNew misread))
      simp only [Machine.exec, execSealEnd, hm]
  | millisecondCountTick => exact answers rfl (h.nothingNew s.tick_nothingNew)

/-- Settles O55: an idle step changes nothing, any other is the command at the front. -/
theorem remembersKept : Obligations.RemembersKept := by
  intro s t h e
  unfold step at e
  split at e
  · exact Host.Outcome.next.inj e ▸ h
  · next c rest _ =>
    have front : State.Remembers { s with pending := rest } := h.nothingNew (.of_eq rfl rfl)
    exact front.exec e

end Sys2Proof.Machine
end

section
/-! SUPPORT. What becomes of a copy that meets no held pair, class by class (R26, R27, R32 to R36, R61 to R73): O23, O25 and O28. -/

namespace Sys2Proof.Machine

variable {s : State} {p : FPort} {k : Fin 64} {st : Stream} {r : Reception}

/-! ### The stream of a copy after the partition checks -/

theorem checkedStream_history (p : FPort) (st : Stream) (good : Bool) :
    (checkedStream p st good).history = st.history := by
  unfold checkedStream
  split <;> rfl

/-- The partition checks count GOOD or DAMAGED and no other counter (R42). -/
theorem checkedStream_counter (p : FPort) (st : Stream) (good : Bool) {c : StreamCtr} (hg : c ≠ .good p)
    (hd : c ≠ .damaged p) : (checkedStream p st good).counter c = st.counter c := by
  unfold checkedStream
  split
  · exact Stream.counter_bump_other hg st
  · exact Stream.counter_bump_other hd st

/-- Changing a slot's stream depends on what the change makes of that stream alone. -/
theorem State.mapStream_congr {f g : Stream → Stream} (hk : s.stream k = some st) (h : f st = g st) :
    s.mapStream k f = s.mapStream k g := by
  simp only [State.mapStream_eq, hk, Option.map_some, h]

/-! ### Classes (Table 2-2) -/

/-- A copy whose pair is not pending does what its class says, and then follows what the part does at once (R26). -/
theorem copyEnds_settles (h : CopyEnds s p k st r) (hn : NotPending s k (frameSeq r.bytes)) {u : State}
    (e : (s.copyChecked p k st r).classifyCopy (copyOf p k st r) st = u) : Settles (.frameReceived (portOf p)) s u := by
  rw [Settles, copyEnds_classified h hn, e]

theorem State.classifyCopy_new {c : Copy} (e : classify st.history st.cfg.jumpLimit.toNat c.seq = .new)
    (hg : c.allGood = true) : s.classifyCopy c st = s.resolve c.subject := by
  simp only [State.classifyCopy, e, hg, if_true]

theorem State.classifyCopy_duplicate {c : Copy} (e : classify st.history st.cfg.jumpLimit.toNat c.seq = .duplicate) :
    s.classifyCopy c st = (s.release c.frame).mapStream c.slot (Stream.countDuplicate c.seq c.port) := by
  simp only [State.classifyCopy, e]

theorem State.classifyCopy_stale {c : Copy} (e : classify st.history st.cfg.jumpLimit.toNat c.seq = .stale) :
    s.classifyCopy c st = s.dropCopy c .stale := by
  simp only [State.classifyCopy, e]

theorem State.classifyCopy_leap {c : Copy} (e : classify st.history st.cfg.jumpLimit.toNat c.seq = .leap) :
    s.classifyCopy c st = s.leapCopy c st := by
  simp only [State.classifyCopy, e]

theorem Stream.countDuplicate_late {seq : Word16} (h : lateTwin st.history seq p = true) :
    st.countDuplicate seq p = Stream.bump .lateTwin { st with history := st.history.map (clearMark seq) } := by
  simp only [Stream.countDuplicate, h, if_true]

theorem Stream.countDuplicate_plain {seq : Word16} (h : lateTwin st.history seq p = false) :
    st.countDuplicate seq p = st.bump .duplicate := by
  simp only [Stream.countDuplicate, h]
  rfl

/-- Settles O23: a DUPLICATE copy by the mark of its member, a STALE copy, and a damaged LEAP copy. -/
theorem copyDroppedByClass : Obligations.CopyDroppedByClass := by
  intro s p k st r h hn cls u
  have stream : u.stream k = some (checkedStream p st (copyOf p k st r).allGood) := State.copyChecked_stream h
  have history := checkedStream_history p st (copyOf p k st r).allGood
  refine ⟨fun e late => ?_, fun e late => ?_, fun e => ?_, fun e damaged => ?_⟩
  · refine copyEnds_settles h hn ((State.classifyCopy_duplicate e).trans (State.mapStream_congr stream ?_))
    exact Stream.countDuplicate_late (by rw [history]; exact late)
  · refine copyEnds_settles h hn ((State.classifyCopy_duplicate e).trans (State.mapStream_congr stream ?_))
    exact Stream.countDuplicate_plain (by rw [history]; exact late)
  · exact copyEnds_settles h hn (State.classifyCopy_stale e)
  · refine copyEnds_settles h hn ((State.classifyCopy_leap e).trans ?_)
    simp only [State.leapCopy, damaged]
    rfl

/-! ### Recording and forwarding -/

/-- A recording writes history and candidate alone (R28, R36). -/
theorem Stream.record_eq (seq : Word16) (mark : Option FPort) (st : Stream) : st.record seq mark =
    { st with history := (st.record seq mark).history, candidate := (st.record seq mark).candidate } := by
  unfold Stream.record
  split <;> rfl

/-- What a recording makes of the history depends on the history alone. -/
theorem Stream.record_history_congr {a b : Stream} (h : a.history = b.history) (seq : Word16) (mark : Option FPort) :
    (a.record seq mark).history = (b.record seq mark).history := by
  cases hr : recorded b.history seq mark with
  | none => rw [Stream.record_keeps hr, Stream.record_keeps (h ▸ hr), h]
  | some g => rw [Stream.record_changes hr, Stream.record_changes (h ▸ hr)]

/-- A frame on its way to the line: in its class queue, or in transmission on L. -/
def ToLine (c : Fin 4) (t : State) (x : Queued) : Prop := x ∈ t.queue (.cls c) ∨ (t.port .l).tx = some x

theorem ToLine.feedNotices {c : Fin 4} {x : Queued} (h : ToLine c s x) : ToLine c s.feedNotices x := by
  obtain ⟨sr, lost, n, ln, fr, e, _⟩ := s.feedNotices_spec
  rw [e]
  exact h

/-- A transmitter that starts on L takes a frame to the line from its queue, or leaves it there; one that starts on a field port
leaves it alone (R96, R112). -/
theorem ToLine.startTx {c : Fin 4} {x : Queued} (h : ToLine c s x) (q : Port) : ToLine c (s.startTx q) x := by
  unfold State.startTx
  split
  · next idle =>
    obtain ⟨idle, -⟩ := Bool.and_eq_true_iff.1 idle
    split
    · next src hsrc =>
      unfold State.sendHead
      split
      · exact h
      · next y rest hy =>
        by_cases hq : q = .l
        · subst hq
          have quiet : (s.port .l).tx = none := Option.isNone_iff_eq_none.1 idle
          have waiting : x ∈ s.queue (.cls c) := h.resolve_right (by rw [quiet]; exact (nomatch ·))
          by_cases hc : src = .cls c
          · subst hc
            rw [hy] at waiting
            rcases List.mem_cons.1 waiting with rfl | waiting
            · exact .inr (by simp)
            · exact .inl (by simpa using waiting)
          · refine .inl ?_
            rw [State.setTx_eq, State.queue_setPort, State.queue_setQueue_other _ _ (Ne.symm hc)]
            exact waiting
        · obtain ⟨fp, rfl, rfl⟩ := State.txSource_field hq hsrc
          refine h.imp (fun waiting => ?_) fun sending => ?_
          · rw [State.setTx_eq, State.queue_setPort, State.queue_setQueue_other _ _ (by simp)]
            exact waiting
          · rw [State.setTx_eq, State.port_setPort_other _ _ (Ne.symm hq), State.port_setQueue]
            exact sending
    · exact h
  · exact h

/-- A frame on its way to the line stays so through what follows at once. -/
theorem ToLine.settle {c : Fin 4} {x : Queued} (h : ToLine c s x) : ToLine c s.settle x :=
  State.settle_induct (P := fun u => ToLine c u x) h (fun _ hu => hu.feedNotices) (fun _ q hu => hu.startTx q)

/-- The credits of a stream that passes policing (R64). -/
theorem policed_passes (h : st.cfg.burst = 0#8 ∨ st.credits ≠ 0#8) : policed st = (true, creditsAfter st) := by
  unfold policed creditsAfter
  by_cases hb : st.cfg.burst = 0#8
  · rw [if_pos hb, if_pos hb]
  · rw [if_neg hb, if_neg hb, if_neg (h.resolve_left hb)]

/-- With one path UP, fewer than both are when the other is not (R71). -/
theorem Stream.solo_iff (p : FPort) {x : Option Byte} (h : st.path p = .up x) :
    decide (st.pathsUp < 2) = ((st.path (otherPort p)).isUp == false) := by
  have up : (st.path p).isUp = true := by rw [h]; rfl
  unfold Stream.pathsUp
  cases p with
  | f0 => simp only [up, otherPort]; cases (st.path .f1).isUp <;> rfl
  | f1 => simp only [up, otherPort]; cases (st.path .f0).isUp <;> rfl

theorem length_goodMap (f : List Byte) (size n : Nat) : (goodMap f size n).length = n := by
  simp [goodMap]

/-- A slot's stream changed after it was replaced. -/
theorem State.mapStream_setSlot (s : State) (k : Fin 64) (st : Stream) (f : Stream → Stream) :
    (s.setSlot k (some st)).mapStream k f = s.setSlot k (some (f st)) := by
  simp only [State.mapStream_eq, State.stream_setSlot_self, Option.map_some]
  simp only [State.setSlot, Vector.set_set]

/-- A stream once its all-good copy has been checked and recorded. -/
def Stream.recordedGood (seq : Word16) (p : FPort) (st : Stream) : Stream := (checkedStream p st true).record seq none

theorem Stream.recordedGood_eq (seq : Word16) (p : FPort) (st : Stream) : st.recordedGood seq p =
    { checkedStream p st true with
      history := (st.recordedGood seq p).history, candidate := (st.recordedGood seq p).candidate } :=
  Stream.record_eq _ _ _

theorem Stream.recordedGood_policed (seq : Word16) (p : FPort) (st : Stream) :
    policed (st.recordedGood seq p) = policed st := by
  rw [Stream.recordedGood_eq]
  rfl

theorem Stream.recordedGood_counter (seq : Word16) (p : FPort) (st : Stream) :
    (st.recordedGood seq p).counter .forwarded = st.counter .forwarded := by
  rw [Stream.recordedGood_eq]
  exact checkedStream_counter p st true (by simp) (by simp)

/-- The frame of an all-good copy is SOLO when the other path is not UP: its own has just come UP (R71, R77). -/
theorem Stream.recordedGood_solo (seq : Word16) (p : FPort) (st : Stream) :
    decide ((st.recordedGood seq p).pathsUp < 2) = ((st.path (otherPort p)).isUp == false) := by
  rw [Stream.recordedGood_eq]
  have own : (checkedStream p st true).path p = .up (some st.cfg.pathTimeout) := PerField.get_set_self _ _ _
  have other : (checkedStream p st true).path (otherPort p) = st.path (otherPort p) :=
    PerField.get_set_other _ _ (by cases p <;> decide)
  rw [← other]
  exact Stream.solo_iff p own

/-- The frame sent to the line for an all-good copy (R70 to R72). -/
def forwardedFrame (s : State) (p : FPort) (st : Stream) (r : Reception) : Queued :=
  ⟨⟨rewriteHeader r.bytes (flagByte false false false ((st.path (otherPort p)).isUp == false) p)
    (frameCount r.bytes) st.cfg.lineId (s.generation.setWidth 8), r.cells⟩, .data⟩

/-- An all-good NEW copy, L being UP, policing passed and its class queue having room: recorded, one credit less, its header
rewritten, at the tail of its class queue (R61 to R73). -/
theorem State.resolve_forwards (h : CopyEnds s p k st r) (hg : (copyOf p k st r).allGood = true) (hl : s.linkUp .l = true)
    (hc : st.cfg.burst = 0#8 ∨ st.credits ≠ 0#8)
    (room : cellCount (s.queue (.cls st.cfg.cls)) + r.cells.length ≤ s.globals.limits[st.cfg.cls].toNat) :
    (s.copyChecked p k st r).resolve (copyOf p k st r).subject =
      (((s.copyChecked p k st r).setSlot k
        (some { st.recordedGood (frameSeq r.bytes) p with credits := creditsAfter st })).enqueue (.cls st.cfg.cls)
        (forwardedFrame s p st r)).bumpStream k .forwarded := by
  have stream := State.copyChecked_stream h
  have queue := State.copyChecked_queue h (.cls st.cfg.cls)
  have up := State.copyChecked_linkUp h .l
  obtain ⟨globals, -, -, -, generation, -⟩ := State.copyChecked_fields h
  rw [hg] at stream
  generalize s.copyChecked p k st r = v at stream queue up globals generation
  have recorded : v.mapStream k (Stream.record (frameSeq r.bytes) none) =
      v.setSlot k (some (st.recordedGood (frameSeq r.bytes) p)) := by
    rw [State.mapStream_eq, stream]
    rfl
  have entry : (st.recordedGood (frameSeq r.bytes) p).cfg = st.cfg := by
    rw [Stream.recordedGood_eq]
    rfl
  have passes := (st.recordedGood_policed (frameSeq r.bytes) p).trans (policed_passes hc)
  rw [State.resolve_good (x := (copyOf p k st r).subject) stream hg]
  show State.forward (v.mapStream k (Stream.record (frameSeq r.bytes) none)) _ _ _ _ _ = _
  rw [recorded]
  refine (State.forward_passes (x := (copyOf p k st r).subject) (State.stream_setSlot_self _ k _) (up.trans hl)
    passes).trans ?_
  show State.enqueueClass ((v.setSlot k _).mapStream k _) k _ _ = _
  rw [State.mapStream_setSlot, Stream.recordedGood_solo, entry, State.enqueueClass_room]
  · simp only [forwardedFrame, State.stamp, State.setSlot_generation, generation, entry]
    rw [show (copyOf p k st r).subject.good.length = frameCount r.bytes from length_goodMap _ _ _]
    rfl
  · refine decide_eq_true ?_
    show cellCount ((v.setSlot k _).queue _) + r.cells.length ≤ v.globals.limits[st.cfg.cls].toNat
    rw [State.queue_setSlot, queue, globals]
    exact room

/-- Settles O25. -/
theorem newCopyForwarded : Obligations.NewCopyForwarded := by
  intro s p k st r h hn e hg hl hc room
  have settles := copyEnds_settles h hn ((State.classifyCopy_new e hg).trans (State.resolve_forwards h hg hl hc room))
  refine ⟨_, settles, ?_⟩
  have others := fun j (hj : j ≠ k) => State.copyChecked_other h hj
  obtain ⟨-, faults, agent, repair, -, -⟩ := State.copyChecked_fields h
  generalize s.copyChecked p k st r = v at others faults agent repair ⊢
  generalize hu : State.bumpStream _ k .forwarded = u
  have egress := u.settle_egress
  obtain ⟨-, -, -, repair', agent', -, -, faults', -⟩ := egress.same
  have stream : u.stream k =
      some (Stream.bump .forwarded { st.recordedGood (frameSeq r.bytes) p with credits := creditsAfter st }) := by
    rw [← hu, State.bumpStream_eq, State.stream_setSlot_self, State.enqueue_eq, State.stream_setQueue,
      State.stream_setSlot_self]
    rfl
  refine ⟨⟨_, (egress.stream k).trans stream, ?_, ?_, rfl, ?_⟩, fun j hj => ?_, repair'.trans ?_, faults'.trans ?_,
    agent'.trans ?_, ?_⟩
  · exact Stream.record_history_congr (checkedStream_history p st true) _ _
  · rw [Stream.counter_bump_same]
    exact congrArg (satInc 32) (Stream.recordedGood_counter _ p st)
  · show (st.recordedGood (frameSeq r.bytes) p).path p = _
    rw [Stream.recordedGood_eq]
    exact PerField.get_set_self _ _ _
  · rw [egress.stream, ← hu, State.bumpStream_eq, State.stream_setSlot_other _ _ hj, State.enqueue_eq,
      State.stream_setQueue, State.stream_setSlot_other _ _ hj]
    exact others j hj
  · rw [← hu]
    exact repair
  · rw [← hu]
    exact faults
  · rw [← hu]
    exact agent
  · have queued : ToLine st.cfg.cls u (forwardedFrame s p st r) := by
      refine .inl ?_
      rw [← hu, State.bumpStream_eq, State.queue_setSlot, State.enqueue_eq, State.queue_setQueue_self]
      exact List.mem_append_right _ List.mem_cons_self
    exact ⟨_, queued.settle, rfl, rfl⟩

end Sys2Proof.Machine
end

section
/-! SUPPORT. LEAP copies: the steps of Table 2-5, the forced resync (R32, R33, R35, R56), and O28. -/

namespace Sys2Proof.Machine

variable {s : State} {p : FPort} {k : Fin 64} {st : Stream} {r : Reception}

/-! ### The rows of Table 2-5 -/

section
variable {c : Candidate} {n : Nat} {seq : Word16}

theorem ne_iff_otherPort {p q : FPort} : q ≠ p ↔ q = otherPort p := by cases p <;> cases q <;> decide

theorem counted_iff : counted c seq = true ↔ 1 ≤ distance seq c.next ∧ distance seq c.next ≤ c.run := by
  simp only [counted, Bool.and_eq_true, decide_eq_true_eq]

/-- The expected next copy extends the run (R32). -/
theorem candidateStep_next (hp : c.port = p) (hs : c.next = seq) :
    candidateStep (some c) n p seq = (⟨p, seq + 1, c.run + 1⟩, decide (n ≤ c.run + 1)) := by
  simp only [candidateStep, if_pos (And.intro hp hs)]

/-- A twin of a counted copy changes nothing (R32; log 24). -/
theorem candidateStep_twin (hp : c.port = otherPort p) (ht : counted c seq = true) :
    candidateStep (some c) n p seq = (c, false) := by
  have other := ne_iff_otherPort.2 hp
  simp only [candidateStep, if_neg fun h : c.port = p ∧ c.next = seq => other h.1, if_pos (And.intro other ht)]

/-- Any other copy starts the run afresh from itself (R32). -/
theorem candidateStep_afresh (hn : c.port = p → c.next ≠ seq) (ht : c.port = otherPort p → ¬ counted c seq = true) :
    candidateStep (some c) n p seq = (⟨p, seq + 1, 1⟩, decide (n ≤ 1)) := by
  simp only [candidateStep, if_neg fun h : c.port = p ∧ c.next = seq => hn h.1 h.2,
    if_neg fun h : c.port ≠ p ∧ counted c seq = true => ht (ne_iff_otherPort.1 h.1) h.2]

end

theorem State.leapCopy_forces {c : Copy} {cand : Candidate} (hg : c.allGood = true)
    (e : candidateStep st.candidate st.cfg.resyncRun.toNat c.port c.seq = (cand, true)) :
    s.leapCopy c st = s.forceResync c st.cfg.fieldId (topOf st.history) := by
  simp only [State.leapCopy, hg, e, if_true]

/-- A LEAP copy whose step does not reach the resync run is dropped, its candidate kept (R35). -/
theorem State.leapCopy_drops {c : Copy} {cand : Candidate} (hg : c.allGood = true)
    (e : candidateStep st.candidate st.cfg.resyncRun.toNat c.port c.seq = (cand, false)) :
    s.leapCopy c st = (s.mapStream c.slot (Stream.setCandidate (some cand))).dropCopy c .leap := by
  simp only [State.leapCopy, hg, e, if_true]
  rfl

/-! ### The forced resync -/

theorem State.stream_raiseFault (s : State) (f : FaultInfo) (k : Fin 64) : (s.raiseFault f).stream k = s.stream k := by
  obtain ⟨q, o, n, l, g, e⟩ := s.raiseFault_spec f
  rw [e]
  rfl

theorem State.stream_raiseNotice (s : State) (b : NoticeBody) (k : Fin 64) :
    (s.raiseNotice b).stream k = s.stream k := by
  obtain ⟨n, l, g, e, _⟩ := s.raiseNotice_spec b
  rw [e]
  rfl

/-- Step 6 counts FORWARDED or CLASS_FULL on its slot and leaves every other (R73). -/
theorem State.enqueueClass_stream (s : State) (k : Fin 64) (c : Fin 4) (f : Frame) :
    ∃ d, (d = .forwarded ∨ d = .classFull) ∧
      ∀ j, (s.enqueueClass k c f).stream j = if j = k then (s.stream k).map (Stream.bump d) else s.stream j := by
  unfold State.enqueueClass
  split
  · refine ⟨.forwarded, .inl rfl, fun j => ?_⟩
    rw [State.bumpStream_eq, State.stream_setSlot, State.enqueue_eq, State.stream_setQueue, State.stream_setQueue]
  · exact ⟨.classFull, .inr rfl, fun j => State.stream_setSlot _ k j _⟩

/-- Steps 3 to 6 of a resolution write its slot's credits and one counter of four, and no other slot (R63, R64, R73). -/
theorem State.forward_stream {x : Subject} (hk : s.stream x.slot = some st) (f : Frame) (n : Nat) (a b : Bool) :
    ∃ credits d, (d = .forwarded ∨ d = .classFull ∨ d = .policed ∨ d = .lineDown) ∧
      ∀ j, (s.forward x f n a b).stream j =
        if j = x.slot then some (Stream.bump d { st with credits := credits }) else s.stream j := by
  have dropped : ∀ d j, ((s.release f).bumpStream x.slot d).stream j =
      if j = x.slot then some (Stream.bump d { st with credits := st.credits }) else s.stream j := fun d j => by
    rw [State.bumpStream_eq, State.stream_setSlot, State.release_eq, State.stream_returnCells,
      State.stream_returnCells, hk]
    rfl
  unfold State.forward
  simp only [hk]
  split
  · split
    · obtain ⟨d, hd, streams⟩ := State.enqueueClass_stream
        (s.mapStream x.slot (fun st' => { st' with credits := (policed st).2 })) x.slot st.cfg.cls
        ⟨rewriteHeader f.bytes (flagByte b a x.merged (decide (st.pathsUp < 2)) x.via) n st.cfg.lineId s.stamp, f.cells⟩
      refine ⟨(policed st).2, d, hd.imp id .inl, fun j => (streams j).trans ?_⟩
      rw [State.mapStream_eq, State.stream_setSlot_self, State.stream_setSlot, hk]
      split <;> rfl
    · exact ⟨st.credits, .policed, by simp, dropped .policed⟩
  · exact ⟨st.credits, .lineDown, by simp, dropped .lineDown⟩

/-- A forced resync up to its resolution: history and repair slots of the stream emptied, RESYNC counted, fault and notice
raised (R33). -/
def State.resynced (s : State) (c : Copy) (fieldId : Id12) (oldTop : Word16) : State :=
  ((((s.mapStream c.slot Stream.emptyHistory).discardStream c.slot).bumpStream c.slot .resync).raiseFault
    { kind := .streamResync, port := some (portOf c.port), fieldId := some fieldId,
      seq := some c.seq }).raiseNotice (.streamResync c.slot fieldId c.port oldTop c.seq)

theorem State.forceResync_eq (s : State) (c : Copy) (fieldId : Id12) (oldTop : Word16) :
    s.forceResync c fieldId oldTop = (s.resynced c fieldId oldTop).resolve c.subject := rfl

/-- What that leaves in the slots: DISCARDED counted for each held copy, RESYNC once, in the stream alone. -/
theorem State.resynced_stream {c : Copy} (hk : s.stream c.slot = some st) (f : Id12) (t : Word16) :
    ∃ n, ∀ j, (s.resynced c f t).stream j =
      if j = c.slot then some (Stream.bump .resync (st.emptyHistory.bumpTimes .discarded n)) else s.stream j := by
  refine ⟨((s.mapStream c.slot Stream.emptyHistory).holding allRepair (fun h => h.slot == c.slot)).length, fun j => ?_⟩
  rw [State.resynced, State.stream_raiseNotice, State.stream_raiseFault, State.bumpStream_eq, State.stream_setSlot,
    State.discardStream_stream, State.discardStream_stream, State.mapStream_eq, State.stream_setSlot_self, hk, if_pos rfl]
  split
  · rfl
  · next hj => exact State.stream_setSlot_other _ _ hj

theorem State.held_resynced (s : State) (c : Copy) (f : Id12) (t : Word16) (q : Fin 8) :
    (s.resynced c f t).held q = if (s.held q).any (fun h => h.slot == c.slot) = true then none else s.held q := by
  rw [State.resynced, State.held_raiseNotice, State.held_raiseFault, State.bumpStream_eq, State.held_setSlot,
    State.held_discardStream]
  rfl

/-- What a forced resync by an all-good copy leaves: the one sequence, no candidate, RESYNC counted and LEAP not, no held copy of
the stream; every other slot as it was (R33, R56). -/
theorem State.forceResync_spec {c : Copy} (hk : s.stream c.slot = some st) (hg : c.allGood = true) (f : Id12) (t : Word16) :
    (∃ st', (s.forceResync c f t).stream c.slot = some st' ∧ st'.memory = (some ⟨c.seq, [⟨c.seq, none⟩]⟩, none) ∧
      st'.counter .resync = satInc 32 (st.counter .resync) ∧ st'.counter .leap = st.counter .leap) ∧
    (∀ q h, (s.forceResync c f t).held q = some h → h.slot ≠ c.slot) ∧
    ∀ j, j ≠ c.slot → (s.forceResync c f t).stream j = s.stream j := by
  rw [State.forceResync_eq]
  obtain ⟨n, streams⟩ := State.resynced_stream hk f t
  have held := s.held_resynced c f t
  generalize s.resynced c f t = v at streams held ⊢
  have stream : v.stream c.slot = some (Stream.bump .resync (st.emptyHistory.bumpTimes .discarded n)) := by
    rw [streams, if_pos rfl]
  generalize hy : Stream.bump .resync (st.emptyHistory.bumpTimes .discarded n) = y at stream
  have empty : y.history = none := by
    rw [← hy, Stream.bumpTimes_eq]
    rfl
  have resync : y.counter .resync = satInc 32 (st.counter .resync) := by
    rw [← hy, Stream.counter_bump_same, Stream.counter_bumpTimes_other (by simp)]
    rfl
  have leap : y.counter .leap = st.counter .leap := by
    rw [← hy, Stream.counter_bump_other (by simp), Stream.counter_bumpTimes_other (by simp)]
    rfl
  have recorded : (v.mapStream c.slot (Stream.record c.seq none)).stream c.slot =
      some { y with history := some ⟨c.seq, [⟨c.seq, none⟩]⟩, candidate := none } := by
    rw [State.mapStream_eq, State.stream_setSlot_self, stream, Option.map_some, Stream.record_empty empty]
  have e : v.resolve c.subject =
      (v.mapStream c.slot (Stream.record c.seq none)).forward c.subject c.frame c.good.length false false :=
    State.resolve_good (x := c.subject) stream hg
  obtain ⟨credits, d, hd, forwarded⟩ := State.forward_stream (x := c.subject) recorded c.frame c.good.length false false
  refine ⟨⟨_, by rw [e, forwarded]; exact if_pos rfl, rfl, ?_, ?_⟩, fun q h hq => ?_, fun j hj => ?_⟩
  · rw [Stream.counter_bump_other (by rcases hd with rfl | rfl | rfl | rfl <;> simp)]
    exact resync
  · rw [Stream.counter_bump_other (by rcases hd with rfl | rfl | rfl | rfl <;> simp)]
    exact leap
  · rw [State.held_resolve, held] at hq
    split at hq
    · cases hq
    · next hne => exact fun hs => hne (by rw [hq]; simpa using hs)
  · rw [e, forwarded]
    refine (if_neg hj).trans ?_
    rw [State.mapStream_eq, State.stream_setSlot_other _ _ hj, streams, if_neg hj]

/-- An all-good LEAP copy whose run is not reached by its step: dropped, its candidate kept (R32, R35). -/
theorem leapCopy_settles {cand : Candidate} (h : CopyEnds s p k st r) (hn : NotPending s k (frameSeq r.bytes))
    (e : classify st.history st.cfg.jumpLimit.toNat (frameSeq r.bytes) = .leap) (hg : (copyOf p k st r).allGood = true)
    (step : candidateStep st.candidate st.cfg.resyncRun.toNat p (frameSeq r.bytes) = (cand, false)) :
    Settles (.frameReceived (portOf p)) s ((((s.copyChecked p k st r).mapStream k (fun y =>
      { y with candidate := some cand })).returnCells r.cells).bumpStream k .leap) :=
  copyEnds_settles h hn ((State.classifyCopy_leap (c := copyOf p k st r) e).trans (State.leapCopy_drops hg step))

/-- Settles O28: the forced resync by its spec, then the rows of Table 2-5 below the resync run. -/
theorem leapCopies : Obligations.LeapCopies := by
  intro s p k st r h hn e hg
  refine ⟨fun c hc hp hs hr => ?_, fun c hc hp hs hr => ?_, fun c hc hp h1 h2 => ?_, fun c hc hnext htwin hr => ?_,
    fun hc hr => ?_⟩
  · have step : candidateStep st.candidate st.cfg.resyncRun.toNat p (frameSeq r.bytes) =
        (⟨p, frameSeq r.bytes + 1, c.run + 1⟩, true) := by
      rw [hc, candidateStep_next hp hs, decide_eq_true hr]
    have settles := copyEnds_settles h hn ((State.classifyCopy_leap (c := copyOf p k st r) e).trans
      (State.leapCopy_forces hg step))
    obtain ⟨⟨st', stream, memory, resync, leap⟩, held, others⟩ :=
      State.forceResync_spec (c := copyOf p k st r) (State.copyChecked_stream h) hg st.cfg.fieldId (topOf st.history)
    refine ⟨⟨_, settles, ?_⟩, fun g hg' => ?_⟩
    · have egress := State.settle_egress
        ((s.copyChecked p k st r).forceResync (copyOf p k st r) st.cfg.fieldId (topOf st.history))
      refine ⟨⟨st', (egress.stream k).trans stream, congrArg Prod.fst memory, congrArg Prod.snd memory, ?_, ?_⟩,
        fun q x hx => held q x ((egress.held q).symm.trans hx), fun j hj => ?_⟩
      · rw [resync, checkedStream_counter p st _ (by simp) (by simp)]
      · rw [leap, checkedStream_counter p st _ (by simp) (by simp)]
      · exact (egress.stream j).trans ((others j hj).trans (State.copyChecked_other h hj))
    · rw [hg'] at settles
      exact settles
  · exact leapCopy_settles h hn e hg (by rw [hc, candidateStep_next hp hs, decide_eq_false (Nat.not_le.2 hr)])
  · exact leapCopy_settles h hn e hg (by rw [hc, candidateStep_twin hp (counted_iff.2 ⟨h1, h2⟩)])
  · exact leapCopy_settles h hn e hg (by
      rw [hc, candidateStep_afresh hnext fun hp ht => htwin hp (counted_iff.1 ht), decide_eq_false (Nat.not_le.2 hr)])
  · exact leapCopy_settles h hn e hg (by rw [hc, candidateStep, decide_eq_false (Nat.not_le.2 hr)])

end Sys2Proof.Machine
end

section
/-! SUPPORT. The checks of a DATA copy, and copies whose pair a repair slot holds (R40 to R42, R47 to R50, R77, R85): O19, O20 and
O21. -/

namespace Sys2Proof.Machine

variable {s : State} {p : FPort} {k : Fin 64} {st : Stream} {r : Reception}

/-! ### Slots written twice -/

theorem State.setSlot_setSlot (s : State) (k : Fin 64) (x y : Option Stream) :
    (s.setSlot k x).setSlot k y = s.setSlot k y := by
  simp only [State.setSlot, Vector.set_set]

theorem State.bumpStream_some (hk : s.stream k = some st) (c : StreamCtr) :
    s.bumpStream k c = s.setSlot k (some (st.bump c)) := by
  rw [State.bumpStream_eq, hk, Option.map_some]

/-! ### The format check (R40) -/

/-- The format check fails on another size code, or on a length that is not the one the count gives (R40). -/
theorem formatOk_eq_false {f : List Byte} {size : PartSize} (h : sizeOfCode (byteAt f 0) ≠ some size ∨
    f.length ≠ 8 + frameCount f * (sizeBytes size + 2)) : formatOk f size = false := by
  unfold formatOk
  split
  · next z hz =>
    rw [Bool.and_eq_false_iff, beq_eq_false_iff_ne, beq_eq_false_iff_ne]
    by_cases e : z = size
    · subst e
      exact .inl (h.resolve_left fun hne => hne hz)
    · exact .inr e
  · rfl

/-- A copy of an ACTIVE slot that fails the format check (R40). -/
theorem State.activeCopy_misfit {f : Frame} (h : formatOk f.bytes st.cfg.size = false) : s.activeCopy p k st f =
    ((s.release f).bumpStream k .formatMismatch).raiseFault
      { kind := .formatMismatch, port := some (portOf p), fieldId := some (frameId f.bytes),
        seq := some (frameSeq f.bytes) } := by
  simp only [State.activeCopy, h]
  rfl

/-! ### The partition checks (R41, R42, R77, R85) -/

/-- Evidence on a path that was not LOST (R77). -/
theorem State.evidence_quiet (hk : s.stream k = some st) (h : (st.path p).isLost = false) :
    s.evidence k p = s.setSlot k (some (st.setPath p (.up (some st.cfg.pathTimeout)))) := by
  have quiet : evidenceNotice k st p s.count = none := by
    unfold evidenceNotice
    split
    · next hp => rw [hp] at h; cases h
    · rfl
  simp only [State.evidence, State.mapStream_eq, hk, quiet, Option.map_some]

/-- Evidence on a LOST path raises PATH_RESTORED (R77, R85). -/
theorem State.evidence_restores (hk : s.stream k = some st) {lostAt : Word32} (h : st.path p = .lost lostAt) :
    s.evidence k p = (s.setSlot k (some (st.setPath p (.up (some st.cfg.pathTimeout))))).raiseNotice
      (.pathRestored k st.cfg.fieldId p lostAt s.count) := by
  simp only [State.evidence, State.mapStream_eq, hk, evidenceNotice, h, Option.map_some]

/-- A damaged copy counts DAMAGED alone (R42). -/
theorem State.copyChecked_damaged (hg : (copyOf p k st r).allGood = false) :
    s.copyChecked p k st r = (s.frameTaken (portOf p)).bumpStream k (.damaged p) := by
  simp only [State.copyChecked, State.countChecks, checkCounter, hg]
  rfl

/-- An all-good copy counts GOOD and is evidence (R42, R77). -/
theorem State.copyChecked_good (hk : s.stream k = some st) (hg : (copyOf p k st r).allGood = true) :
    s.copyChecked p k st r = ((s.frameTaken (portOf p)).setSlot k (some (st.bump (.good p)))).evidence k p := by
  have counted := State.bumpStream_some (s := s.frameTaken (portOf p)) hk (.good p)
  simp only [State.copyChecked, State.countChecks, checkCounter, hg, if_true]
  exact congrArg (State.evidence · k p) counted

/-- Settles O19: the format check, then the partition checks by what the path of the copy was. -/
theorem copyChecks : Obligations.CopyChecks := by
  constructor
  · intro s p r k st h found active misfit
    have fails := formatOk_eq_false misfit
    have dropped := State.activeCopy_misfit (s := s.frameTaken (portOf p)) (p := p) (k := k) (f := ⟨r.bytes, r.cells⟩) fails
    rw [Settles, dataFrame_found h found, if_neg (by simp [active]), dropped]
    rfl
  · intro s p k st r h good
    refine ⟨fun damaged => State.copyChecked_damaged damaged, fun allGood => ?_⟩
    have checked := State.copyChecked_good (p := p) (r := r) h.found.held allGood
    have stream := (s.frameTaken (portOf p)).stream_setSlot_self k (some (st.bump (.good p)))
    refine ⟨fun quiet => ?_, fun lostAt lost => ?_⟩
    · rw [checked, State.evidence_quiet stream quiet, State.setSlot_setSlot]
      rfl
    · rw [checked, State.evidence_restores stream lost, State.setSlot_setSlot]
      rfl

/-! ### Copies that meet a held copy (R47 to R50) -/

/-- A copy whose pair one repair slot holds does what its meeting says, and then follows what the part does at once (R43). -/
theorem copyEnds_meets_settles (h : CopyEnds s p k st r) {q : Fin 8} {x : Held} (hq : s.held q = some x) (hk : x.slot = k)
    (hs : x.seq = frameSeq r.bytes)
    (only : ∀ q' x', s.held q' = some x' → x'.slot = k → x'.seq = frameSeq r.bytes → q' = q) {u : State}
    (e : (s.copyChecked p k st r).meetHeld q x (copyOf p k st r) st.cfg = u) : Settles (.frameReceived (portOf p)) s u := by
  rw [Settles, copyEnds_meets h hq hk hs only, e]

section
variable {q : Fin 8} {x : Held} {c : Copy} {cfg : StreamConfig}

theorem State.meetHeld_repeat (hp : c.port = x.port) : s.meetHeld q x c cfg = s.dropCopy c .duplicate := by
  rw [State.meetHeld, if_pos hp]

theorem State.meetHeld_mismatch (hp : c.port ≠ x.port) (hn : c.good.length ≠ x.count) :
    s.meetHeld q x c cfg = s.twinMismatch q c cfg := by
  rw [State.meetHeld, if_neg hp, if_pos hn]

theorem State.meetHeld_replaces (hp : c.port ≠ x.port) (hn : c.good.length = x.count) (hg : c.allGood = true) :
    s.meetHeld q x c cfg = s.replaceHeld q x c := by
  rw [State.meetHeld, if_neg hp, if_neg (not_not_intro hn), if_pos hg]

theorem State.meetHeld_merges (hp : c.port ≠ x.port) (hn : c.good.length = x.count) (hg : c.allGood = false) :
    s.meetHeld q x c cfg = s.mergeHeld q x c cfg := by
  rw [State.meetHeld, if_neg hp, if_neg (not_not_intro hn), if_neg (by simp [hg])]

/-- A held copy resolved alone without an expiry: its slot is freed first, and no late-twin mark is set (R48, R53). -/
theorem State.resolveHeld_alone (hq : s.held q = some x) :
    s.resolveHeld q false = (s.setHeld q none).resolve (heldSubject x none) := by
  simp only [State.resolveHeld, hq]
  rfl

end

/-- Settles O20. -/
theorem heldPortRepeat : Obligations.HeldPortRepeat := by
  intro s p k st r q x h hq hk hs hp only
  exact copyEnds_meets_settles h hq hk hs only (State.meetHeld_repeat hp.symm)

/-! ### The merged bytes (R50) -/

section
variable {size : Nat}

theorem length_partWithCheck {f : List Byte} {n i : Nat} (h : f.length = 8 + n * (size + 2)) (hi : i < n) :
    (partWithCheck f size i).length = size + 2 := by
  have room : (i + 1) * (size + 2) ≤ n * (size + 2) := Nat.mul_le_mul_right _ hi
  rw [Nat.succ_mul] at room
  rw [partWithCheck, List.length_take, List.length_drop, h]
  omega

/-- Partition `i` of the merged frame: the twin's where it is bad in the held copy and good in the twin (R50). -/
def mergedPart (size : Nat) (a b : List Byte) (g g' : List Bool) (i : Nat) : List Byte :=
  if !g.getD i false && g'.getD i false then partWithCheck b size i else partWithCheck a size i

theorem mergedBytes_eq (size : Nat) (a b : List Byte) (g g' : List Bool) : mergedBytes size a b g g' =
    a.take 8 ++ (List.finRange g.length).flatMap (fun i => mergedPart size a b g g' i.val) := by
  rw [mergedBytes, ← List.map_coe_finRange_eq_range, List.flatMap_map]
  rfl

variable {a b : List Byte} {g g' : List Bool}

theorem length_mergedPart (ha : a.length = 8 + g.length * (size + 2)) (hb : b.length = a.length) (i : Fin g.length) :
    (mergedPart size a b g g' i).length = size + 2 := by
  unfold mergedPart
  split
  · exact length_partWithCheck (hb.trans ha) i.isLt
  · exact length_partWithCheck ha i.isLt

/-- Where the twin's partition is taken, by the two good-maps. -/
theorem takesTwin_iff (hg : g'.length = g.length) {i : Nat} (hi : i < g.length) :
    (!g.getD i false && g'.getD i false) = true ↔ g[i]? = some false ∧ g'[i]? = some true := by
  rw [List.getD_eq_getElem _ _ hi, List.getD_eq_getElem _ _ (hg ▸ hi), List.getElem?_eq_getElem hi,
    List.getElem?_eq_getElem (hg ▸ hi)]
  simp

/-- A merged frame has the held copy's length and header, and each partition from the one copy or the other (R50). -/
theorem mergedBytes_spec (ha : a.length = 8 + g.length * (size + 2)) (hb : b.length = a.length)
    (hg : g'.length = g.length) :
    (mergedBytes size a b g g').length = a.length ∧ (mergedBytes size a b g g').take 8 = a.take 8 ∧
      ∀ i, i < g.length → partWithCheck (mergedBytes size a b g g') size i =
        if g[i]? = some false ∧ g'[i]? = some true then partWithCheck b size i else partWithCheck a size i := by
  have parts := length_mergedPart (g' := g') ha hb
  have head : (a.take 8).length = 8 := by rw [List.length_take]; omega
  rw [mergedBytes_eq]
  refine ⟨?_, List.take_left' head, fun i hi => ?_⟩
  · rw [List.length_append, head, length_flatMap_const parts, List.length_finRange, ha, Nat.mul_comm]
  · have block := take_drop_flatMap parts (List.finRange g.length) [] i (by simpa using hi)
    rw [List.append_nil, List.getElem_finRange] at block
    rw [partWithCheck, ← List.drop_drop, List.drop_left' head, Nat.mul_comm, block]
    exact if_congr (takesTwin_iff hg hi) rfl rfl

end

/-- Settles O21: the three meetings with a twin, and the bytes of a merge. -/
theorem twinMeetsHeld : Obligations.TwinMeetsHeld := by
  refine ⟨?_, fun size a b g g' ha hb hg => mergedBytes_spec ha hb hg⟩
  intro s p k st r q x h hq hk hs hp only v good
  subst hk
  have twin : (copyOf p x.slot st r).port ≠ x.port := by
    rw [hp]
    exact ne_iff_otherPort.2 (by cases p <;> rfl)
  have settles := fun {u : State} => copyEnds_meets_settles (u := u) h hq rfl hs only
  refine ⟨fun hn => settles ?_, fun hn hg => settles ?_, fun hn hg => settles ?_⟩
  · have held : ((v.release ⟨r.bytes, r.cells⟩).raiseFault
        { kind := .twinMismatch, port := some (portOf p), fieldId := some st.cfg.fieldId,
          seq := some (frameSeq r.bytes) }).held q = some x := by
      rw [State.held_raiseFault]
      exact (State.copyChecked_held h q).trans hq
    rw [State.meetHeld_mismatch twin hn, ← hp]
    exact State.resolveHeld_alone held
  · rw [State.meetHeld_replaces twin hn hg, hs]
    rfl
  · rw [State.meetHeld_merges twin hn hg, ← hp]
    rfl

end Sys2Proof.Machine
end

section
/-! SUPPORT. Damaged copies: the hold, the damage policies, and the wait expiry (R44, R45, R51, R57 to R60): O24 and O31. -/

namespace Sys2Proof.Machine

variable {s : State} {k : Fin 64} {st : Stream} {x : Subject}

/-! ### The hold (R44, R45) -/

/-- In a rising list the search finds the least member that passes. -/
theorem find?_le_of_rising {l : List (Fin 8)} (rising : l.Pairwise (· < ·)) {test : Fin 8 → Bool} {q q' : Fin 8}
    (found : l.find? test = some q') (hq : q ∈ l) (ht : test q = true) : q' ≤ q := by
  obtain ⟨-, before, after, rfl, fails⟩ := List.find?_eq_some_iff_append.1 found
  obtain ⟨-, rest, -⟩ := List.pairwise_append.1 rising
  rcases List.mem_append.1 hq with early | late
  · exact absurd ht (by simpa using fails q early)
  · rcases List.mem_cons.1 late with rfl | late
    · exact le_rfl
    · exact ((List.pairwise_cons.1 rest).1 q late).le

theorem allRepair_rising : allRepair.Pairwise (· < ·) := by decide

theorem State.freeRepair_lowest {q : Fin 8} (h : LowestFree s q) : s.freeRepair = some q := by
  have passes : (s.held q).isNone = true := Option.isNone_iff_eq_none.2 h.free
  cases found : s.freeRepair with
  | none => exact absurd passes (List.find?_eq_none.1 found q (mem_allRepair q))
  | some q' =>
    have free : (s.held q').isNone = true := List.find?_some (p := fun q => (s.held q).isNone) found
    have le : q' ≤ q := find?_le_of_rising allRepair_rising found (mem_allRepair q) passes
    exact congrArg some (le.eq_of_not_lt fun lt => h.lowest q' lt (Option.isNone_iff_eq_none.1 free))

theorem State.freeRepair_none (h : ∀ q, s.held q ≠ none) : s.freeRepair = none :=
  List.find?_eq_none.2 fun q _ => by simpa [Option.isNone_iff_eq_none] using h q

/-- The repair slots of two states hold the same, so the same one is the lowest FREE (R45). -/
theorem State.freeRepair_congr {t : State} (h : ∀ q, t.held q = s.held q) : t.freeRepair = s.freeRepair :=
  congrArg (List.find? · allRepair) (funext fun q => by rw [h])

theorem State.holdTest_iff {c : Copy} : s.holdTest c st = true ↔ st.cfg.twinWait ≠ 0#16 ∧
    s.linkUp (portOf (otherPort c.port)) = true ∧ (st.path (otherPort c.port)).isLost = false := by
  simp [State.holdTest, and_assoc]

theorem State.holdOrResolve_holds {c : Copy} (h : s.holdTest c st = true) {q : Fin 8} (hq : s.freeRepair = some q) :
    s.holdOrResolve c st = s.setHeld q (some (heldCopy c st.cfg)) := by
  simp only [State.holdOrResolve, h, hq, if_true]

theorem State.holdOrResolve_full {c : Copy} (h : s.holdTest c st = true) (hq : s.freeRepair = none) :
    s.holdOrResolve c st = ((s.bumpGlobal .repairFull).raiseFault
      { kind := .repairFull, port := some (portOf c.port), fieldId := some st.cfg.fieldId,
        seq := some c.seq }).resolve c.subject := by
  simp only [State.holdOrResolve, h, hq, if_true]

theorem State.holdOrResolve_resolves {c : Copy} (h : s.holdTest c st = false) :
    s.holdOrResolve c st = s.resolve c.subject := by
  simp only [State.holdOrResolve, h]
  rfl

theorem State.classifyCopy_damaged {c : Copy} (e : classify st.history st.cfg.jumpLimit.toNat c.seq = .new)
    (hg : c.allGood = false) : s.classifyCopy c st = s.holdOrResolve c st := by
  simp only [State.classifyCopy, e, hg]
  rfl

/-- Settles O24: held, or resolved at once, by the tests of the hold and the repair slots. -/
theorem damagedCopyHeld : Obligations.DamagedCopyHeld := by
  intro s p k st r h hn e hg v x
  have settles := fun {u : State} (hu : v.holdOrResolve (copyOf p k st r) st = u) =>
    copyEnds_settles h hn ((State.classifyCopy_damaged (c := copyOf p k st r) e hg).trans hu)
  have slots : v.freeRepair = s.freeRepair := State.freeRepair_congr (State.copyChecked_held h)
  have test : v.holdTest (copyOf p k st r) st = true ↔ st.cfg.twinWait ≠ 0#16 ∧
      s.linkUp (portOf (otherPort p)) = true ∧ (st.path (otherPort p)).isLost = false := by
    rw [State.holdTest_iff, State.copyChecked_linkUp h]
    rfl
  refine ⟨fun waits up path => ?_, fun fails => settles (State.holdOrResolve_resolves ?_)⟩
  · have holds := test.2 ⟨waits, up, path⟩
    refine ⟨fun q lowest => settles ?_, fun full => settles ?_⟩
    · have count : (copyOf p k st r).good.length = frameCount r.bytes := length_goodMap _ _ _
      rw [State.holdOrResolve_holds holds (slots.trans (State.freeRepair_lowest lowest)), heldCopy, count]
      rfl
    · exact State.holdOrResolve_full holds (slots.trans (State.freeRepair_none full))
  · rw [Bool.eq_false_iff, Ne, test]
    rintro ⟨waits, up, path⟩
    rcases fails with zero | down | lost
    · exact waits zero
    · exact Bool.false_ne_true (down.symm.trans up)
    · exact Bool.false_ne_true (path.symm.trans lost)

/-! ### The damage policies (Table 3-3) -/

theorem policyOutcome_good {good : List Bool} (h : good.all id = true) (pol : DamagePolicy) :
    policyOutcome pol good = .whole := by
  rw [policyOutcome, lowestBad_none.2 h]

theorem policyOutcome_bad {good : List Bool} {j : Nat} (h : lowestBad good = some j) :
    policyOutcome .whole good = .dropped j ∧ policyOutcome .trim good = (if j = 0 then .dropped 0 else .trimmed j) ∧
      policyOutcome .mark good = .marked := by
  simp only [policyOutcome, h, and_self]

/-- A frame that step 2 drops (R58). -/
theorem State.resolve_dropped (hk : s.stream x.slot = some st) {j : Nat}
    (hd : policyOutcome st.cfg.policy x.good = .dropped j) : s.resolve x =
      (((s.mapStream x.slot (Stream.record x.seq x.mark)).returnCells x.frame.cells).bumpStream x.slot
        .damageDropped).raiseFault
        { kind := .damageDropped, port := some (portOf x.via), fieldId := some st.cfg.fieldId, seq := some x.seq,
          part := some j } := by
  simp only [State.resolve, hk, State.settleFrame, hd]
  rfl

/-- With a bad partition there is a lowest one. -/
theorem lowestBad_isSome {good : List Bool} {j : Nat} (h : good[j]? = some false) : ∃ i, lowestBad good = some i := by
  cases e : lowestBad good with
  | some i => exact ⟨i, rfl⟩
  | none =>
    have := List.all_eq_true.1 (lowestBad_none.1 e) false (List.mem_of_getElem? h)
    cases this

/-- A frame that step 2 hands on goes through steps 3 to 6 (R57, R59, R60). -/
theorem State.resolve_afterPolicy (hk : s.stream x.slot = some st) {w : State} {f : Frame} {n : Nat}
    {trimmed damaged : Bool}
    (h : AfterPolicy (s.mapStream x.slot (Stream.record x.seq x.mark)) x st.cfg w f n trimmed damaged) :
    s.resolve x = w.forward x f n trimmed damaged := by
  have settled : s.resolve x = (s.mapStream x.slot (Stream.record x.seq x.mark)).settleFrame x st.cfg := by
    simp only [State.resolve, hk]
  rw [settled]
  cases h with
  | whole good => simp only [State.settleFrame, policyOutcome_good good]
  | trimmed _ bytes cells policy bad before pos hbytes hcells =>
    have outcome : policyOutcome st.cfg.policy x.good = .trimmed n := by
      rw [policy, (policyOutcome_bad (lowestBad_some bad before)).2.1, if_neg (Nat.one_le_iff_ne_zero.1 pos)]
    subst hcells hbytes
    simp only [State.settleFrame, outcome]
    rfl
  | marked j policy bad =>
    obtain ⟨i, lowest⟩ := lowestBad_isSome bad
    have outcome : policyOutcome st.cfg.policy x.good = .marked := by
      rw [policy, (policyOutcome_bad lowest).2.2]
    simp only [State.settleFrame, outcome]

/-- What steps 3 to 6 read of a stream: its plan and its credits (R64, R70, R71). -/
structure SameRoute (a b : Stream) : Prop where
  plan : SamePlan a b
  credits : b.credits = a.credits

theorem SameRoute.policed {a b : Stream} (h : SameRoute a b) : policed b = policed a := by
  simp only [Machine.policed, h.plan.cfg, h.credits]

theorem SameRoute.pathsUp {a b : Stream} (h : SameRoute a b) : b.pathsUp = a.pathsUp := by
  simp only [Stream.pathsUp, Stream.path, h.plan.paths]
  rfl

theorem SameRoute.bump {a b : Stream} (h : SameRoute a b) (c : StreamCtr) : SameRoute a (b.bump c) :=
  ⟨h.plan.trans (Stream.bump_plan c b), h.credits⟩

theorem Stream.record_route (seq : Word16) (mark : Option FPort) (st : Stream) : SameRoute st (st.record seq mark) :=
  ⟨Stream.record_plan seq mark st, by rw [Stream.record_eq]⟩

/-- What steps 1 and 2 leave of what steps 3 to 6 read. -/
structure Routes (s w : State) (k : Fin 64) (st : Stream) : Prop where
  stream : ∃ st', w.stream k = some st' ∧ SameRoute st st'
  linkUp : w.linkUp .l = s.linkUp .l
  queue : ∀ q, w.queue q = s.queue q
  globals : w.globals = s.globals
  generation : w.generation = s.generation

theorem Routes.returnCells {w : State} (h : Routes s w k st) (l : List CellId) : Routes s (w.returnCells l) k st :=
  ⟨h.stream, h.linkUp, fun q => (w.queue_returnCells l q).trans (h.queue q), h.globals, h.generation⟩

theorem Routes.bumpStream {w : State} (h : Routes s w k st) (c : StreamCtr) : Routes s (w.bumpStream k c) k st where
  stream := by
    obtain ⟨st', stream, route⟩ := h.stream
    exact ⟨st'.bump c, by rw [State.bumpStream_some stream, State.stream_setSlot_self], route.bump c⟩
  linkUp := h.linkUp
  queue q := (w.queue_setSlot k _ q).trans (h.queue q)
  globals := h.globals
  generation := h.generation

theorem Routes.recorded (hk : s.stream k = some st) (seq : Word16) (mark : Option FPort) :
    Routes s (s.mapStream k (Stream.record seq mark)) k st where
  stream := ⟨st.record seq mark, by rw [State.mapStream_eq, State.stream_setSlot_self, hk, Option.map_some],
    Stream.record_route seq mark st⟩
  linkUp := rfl
  queue q := s.queue_setSlot k _ q
  globals := rfl
  generation := rfl

theorem Routes.afterPolicy {v w : State} (h : Routes s v x.slot st) {f : Frame} {n : Nat} {trimmed damaged : Bool}
    (a : AfterPolicy v x st.cfg w f n trimmed damaged) : Routes s w x.slot st := by
  cases a with
  | whole => exact h
  | trimmed => exact (h.returnCells _).bumpStream .trimmed
  | marked => exact h.bumpStream .marked

/-- Steps 3 to 6 where L is UP, policing passes and the class queue has room: the frame joins that queue with its header
rewritten, and FORWARDED counts (R63, R64, R70 to R73). -/
theorem Routes.forward {w : State} (h : Routes s w x.slot st) {f : Frame} {n : Nat} {trimmed damaged : Bool}
    (up : s.linkUp .l = true) (hc : st.cfg.burst = 0#8 ∨ st.credits ≠ 0#8)
    (room : cellCount (s.queue (.cls st.cfg.cls)) + f.cells.length ≤ s.globals.limits[st.cfg.cls].toNat) :
    w.forward x f n trimmed damaged =
      ((w.mapStream x.slot (fun y => { y with credits := creditsAfter st })).enqueue (.cls st.cfg.cls)
        ⟨⟨rewriteHeader f.bytes (flagByte damaged trimmed x.merged (decide (st.pathsUp < 2)) x.via) n st.cfg.lineId
          (s.generation.setWidth 8), f.cells⟩, .data⟩).bumpStream x.slot .forwarded := by
  obtain ⟨st', stream, route⟩ := h.stream
  rw [State.forward_passes stream (h.linkUp.trans up) (route.policed.trans (policed_passes hc)), route.pathsUp,
    route.plan.cfg, State.stamp, h.generation]
  refine State.enqueueClass_room (decide_eq_true ?_)
  show cellCount ((w.setSlot x.slot _).queue _) + f.cells.length ≤ w.globals.limits[st.cfg.cls].toNat
  rw [State.queue_setSlot, h.queue, h.globals]
  exact room

/-! ### The wait expiry (R51) -/

/-- A wait expiry frees the slot and resolves the copy alone, with a late-twin mark that names the other port (R51). -/
theorem waitTimerRunOut_settles {q : Fin 8} {h : Held} (hp : s.phase = .running) (hq : s.held q = some h) {u : State}
    (e : (s.setHeld q none).resolve (heldSubject h (some (otherPort h.port))) = u) : Settles (.waitTimerRunOut q) s u := by
  rw [Settles, ← e]
  simp only [exec, execWaitTimerRunOut, whenRunning_running hp, State.resolveHeld, hq, if_true]

/-- Settles O31: the expiry, the copy dropped under WHOLE, the copy forwarded, and Table 3-3. -/
theorem waitExpiryAndPolicies : Obligations.WaitExpiryAndPolicies := by
  refine ⟨?_, fun good => ⟨policyOutcome_good, fun j bad before => policyOutcome_bad (lowestBad_some bad before)⟩⟩
  intro s q h hp hq x
  refine ⟨waitTimerRunOut_settles hp hq rfl, ?_⟩
  intro st hk v
  have stream : (s.setHeld q none).stream x.slot = some st := hk
  refine ⟨fun j policy bad => ?_, fun w f n trimmed damaged after up hc room => ?_⟩
  · refine waitTimerRunOut_settles hp hq (State.resolve_dropped (x := x) stream ?_)
    rw [policy]
    exact (policyOutcome_bad bad).1
  · have routes : Routes (s.setHeld q none) w x.slot st :=
      Routes.afterPolicy (Routes.recorded stream h.seq (some (otherPort h.port))) after
    refine waitTimerRunOut_settles hp hq ((State.resolve_afterPolicy stream after).trans (routes.forward up hc ?_))
    rw [State.queue_setHeld]
    exact room

end Sys2Proof.Machine
end

section
/-! SUPPORT. The loss of a link on a field port by a loss of signal (R53, R74, R80, R97, R98, R103, R111): O11. -/

namespace Sys2Proof.Machine

variable {s t u : State} {p : FPort}

/-! ### Global counters -/

/-- The global counters in report order (Table 10-4). -/
def globalCtrList : List GlobalCtr :=
  [.unknownStream, .fieldControl, .lineData, .repairFull, .requestOverflow, .responseDropped, .laneFull, .flushed .lane,
    .flushed (.cls 0), .flushed (.cls 1), .flushed (.cls 2), .flushed (.cls 3), .flushed (.command .f0),
    .flushed (.command .f1), .classFull 0, .classFull 1, .classFull 2, .classFull 3, .fieldQueueFull .f0,
    .fieldQueueFull .f1, .noticesLost]

theorem globalCtrList_idx (c : GlobalCtr) : globalCtrList[(globalCtrIdx c).val]? = some c := by
  cases c with
  | flushed q =>
    cases q with
    | lane => rfl
    | cls c => match c with | 0 | 1 | 2 | 3 => rfl
    | command p => cases p <;> rfl
  | classFull c => match c with | 0 | 1 | 2 | 3 => rfl
  | fieldQueueFull p => cases p <;> rfl
  | _ => rfl

/-- Every global counter has a place of its own (Table 10-4). -/
theorem globalCtrIdx_injective : Function.Injective globalCtrIdx := fun a b h => by
  have := globalCtrList_idx a
  rw [h, globalCtrList_idx b] at this
  exact (Option.some.inj this).symm

theorem State.globalCounter_bumpGlobal (s : State) (c d : GlobalCtr) : (s.bumpGlobal c).globalCounter d =
    if d = c then satInc 32 (s.globalCounter d) else s.globalCounter d := by
  split
  · next h => subst h; exact bumpAt_same _ _
  · next h => exact bumpAt_other _ fun e => h (globalCtrIdx_injective e.symm)

/-! ### Port counters -/

/-- A set of port counters with one of them incremented when a test holds. -/
theorem bumpAt_portCtr (v : Vector Word32 7) (c d : PortCtr) (b : Bool) :
    (if b = true then bumpAt v (portCtrIdx c) else v)[portCtrIdx d] =
      if d = c ∧ b = true then satInc 32 v[portCtrIdx d] else v[portCtrIdx d] := by
  have apart : d ≠ c → portCtrIdx c ≠ portCtrIdx d := by cases c <;> cases d <;> decide
  cases b with
  | false => simp
  | true =>
    by_cases h : d = c
    · subst h
      rw [if_pos rfl, if_pos ⟨rfl, rfl⟩]
      exact bumpAt_same v _
    · rw [if_pos rfl, if_neg fun hh => h hh.1, bumpAt_other v (apart h)]

/-! ### Frames that a field port lets go (R103, R111, R114, R163) -/

theorem State.portHolds_congr {f : Frame} (hc : t.command.get p = s.command.get p)
    (hp : (t.port (portOf p)).tx = (s.port (portOf p)).tx) : t.portHolds p f = s.portHolds p f := by
  unfold State.portHolds
  rw [hc, hp]

theorem otherPort_ne (p : FPort) : otherPort p ≠ p := by cases p <;> decide

theorem portOf_otherPort_ne (p : FPort) : portOf (otherPort p) ≠ portOf p := by cases p <;> decide

/-- A field port's release writes the pool alone: the cells return unless the other field port holds the frame (R103). -/
theorem State.releaseShared_eq (s : State) (p : FPort) (f : Frame) : s.releaseShared p f =
    { s with free := s.free ++ if s.portHolds (otherPort p) f = true then [] else f.cells } := by
  unfold State.releaseShared
  split
  · next h => simp
  · next h => simp [State.returnCells]

theorem State.releaseTx_portOf (s : State) (p : FPort) (f : Frame) :
    s.releaseTx (portOf p) f = s.releaseShared p f := by
  cases p <;> rfl

/-- The cells that return when field port `p` lets frames go: those of the frames that the other field port does not hold. -/
def State.unsharedCells (s : State) (p : FPort) (l : List Queued) : List CellId :=
  (l.filter (fun x => !s.portHolds (otherPort p) x.frame)).flatMap (fun x => x.frame.cells)

/-- Field port `p` has let frames go and reported them not sent (R103, R114, R163). -/
structure LetsGo (p : FPort) (l : List Queued) (s t : State) : Prop where
  free : t.free = s.free ++ s.unsharedCells p l
  lost : t.noticesLost.toNat = min 65535 (s.noticesLost.toNat + (l.map (fun x => (keptLost x.origin).toNat)).sum)

theorem LetsGo.nil (free : t.free = s.free) (lost : t.noticesLost = s.noticesLost) : LetsGo p [] s t where
  free := free.trans (List.append_nil _).symm
  lost := by
    have := s.noticesLost.isLt
    rw [lost, List.map_nil, List.sum_nil]
    omega

theorem LetsGo.single {x : Queued} (free : t.free = (s.releaseShared p x.frame).free)
    (lost : t.noticesLost = satAdd 16 s.noticesLost (keptLost x.origin)) : LetsGo p [x] s t where
  free := by
    rw [free, State.releaseShared_eq, State.unsharedCells]
    cases h : s.portHolds (otherPort p) x.frame <;> simp [h]
  lost := by
    rw [lost, satAdd16_toNat]
    simp

theorem LetsGo.append {l l' : List Queued} (a : LetsGo p l s t) (b : LetsGo p l' t u)
    (same : ∀ f, t.portHolds (otherPort p) f = s.portHolds (otherPort p) f) : LetsGo p (l ++ l') s u where
  free := by
    rw [b.free, a.free, List.append_assoc]
    simp only [State.unsharedCells, same, List.filter_append, List.flatMap_append]
  lost := by
    rw [b.lost, a.lost, List.map_append, List.sum_append]
    omega

/-! ### Flushing a queue (R111) -/

theorem State.flushOne_globalCounter (q : QueueId) (s : State) (x : Queued) (c : GlobalCtr) :
    (State.flushOne q s x).globalCounter c =
      if c = .flushed q then satInc 32 (s.globalCounter c) else s.globalCounter c := by
  have counters : (s.releaseFrom q x.frame).globalCounter c = s.globalCounter c := by
    cases q with
    | command p =>
      show (s.releaseShared p x.frame).globalCounter c = _
      rw [State.releaseShared_eq]
      rfl
    | _ => rfl
  rw [← counters]
  exact State.globalCounter_bumpGlobal _ _ _

/-- A flush counts FLUSHED of its queue once for each frame, and no other global counter (R111). -/
theorem State.flush_globalCounter (s : State) (q : QueueId) (c : GlobalCtr) : (s.flush q).globalCounter c =
    if c = .flushed q then (satInc 32)^[(s.queue q).length] (s.globalCounter c) else s.globalCounter c := by
  have start : (s.setQueue q []).globalCounter c = s.globalCounter c := by cases q <;> rfl
  rw [State.flush, ← start]
  generalize s.setQueue q [] = u
  induction s.queue q generalizing u with
  | nil => simp
  | cons x l ih =>
    rw [List.foldl_cons, ih, State.flushOne_globalCounter]
    split
    · rw [List.length_cons, Function.iterate_succ_apply]
    · rfl

theorem flushOne_letsGo (p : FPort) (s : State) (x : Queued) : LetsGo p [x] s (State.flushOne (.command p) s x) := by
  refine .single rfl ?_
  show satAdd 16 (s.releaseShared p x.frame).noticesLost _ = _
  rw [State.releaseShared_eq]

/-- A field port's flush lets the frames of its command queue go (R111). -/
theorem flush_letsGo (s : State) (p : FPort) : LetsGo p (s.command.get p) s (s.flush (.command p)) := by
  have go : ∀ (l : List Queued) (v : State), LetsGo p l v (l.foldl (State.flushOne (.command p)) v) := by
    intro l
    induction l with
    | nil => exact fun v => .nil rfl rfl
    | cons x l ih =>
      intro v
      refine (flushOne_letsGo p v x).append (ih _) fun f => ?_
      obtain ⟨fr, g, n, e⟩ := State.flushOne_frame (.command p) v x
      rw [e]
      rfl
  have same : ∀ f, (s.setQueue (.command p) []).portHolds (otherPort p) f = s.portHolds (otherPort p) f := fun f =>
    State.portHolds_congr (PerField.get_set_other _ _ (otherPort_ne p)) rfl
  exact LetsGo.append (l := []) (t := s.setQueue (.command p) []) (.nil rfl rfl) (go _ _) same

/-! ### Receptions and transmissions that a loss of link ends (R91, R97) -/

theorem State.setPort_same {q : Port} {x : PortState} (h : s.port q = x) : s.setPort q x = s := by
  subst h
  cases q <;> rfl

/-- A reception ends without becoming a frame: it is gone, its counter counts, its cells return (R91). -/
theorem State.abandon_eq (s : State) (q : Port) (c : PortCtr) : s.abandon q c =
    (s.setPort q { s.port q with
      reception := none
      counters := if (s.port q).reception.isSome = true then bumpAt (s.port q).counters (portCtrIdx c)
        else (s.port q).counters }).returnCells (s.receptionCells q) := by
  unfold State.abandon State.receptionCells
  cases h : (s.port q).reception with
  | none =>
    have same : s.port q = { s.port q with reception := none, counters := (s.port q).counters } := by rw [← h]
    rw [State.setPort_same (by exact same)]
    simp [State.returnCells]
  | some r =>
    cases q <;> rfl

/-- A transmission cut on a port: it is gone, closed as cut, TX_ABORTED counts (R97). -/
theorem State.cutTx_port (s : State) (p : FPort) : (s.cutTx (portOf p)).port (portOf p) = { s.port (portOf p) with
    tx := none
    lastEnd := if (s.port (portOf p)).tx.isSome = true then some .cut else (s.port (portOf p)).lastEnd
    counters := if (s.port (portOf p)).tx.isSome = true then bumpAt (s.port (portOf p)).counters (portCtrIdx .txAborted)
      else (s.port (portOf p)).counters } := by
  unfold State.cutTx
  cases h : (s.port (portOf p)).tx with
  | none =>
    have same : s.port (portOf p) = { s.port (portOf p) with tx := none } := by rw [← h]
    exact same
  | some x =>
    simp only [State.releaseTx_portOf, State.releaseShared_eq]
    cases p <;> rfl

theorem cutTx_letsGo (s : State) (p : FPort) :
    LetsGo p (s.port (portOf p)).tx.toList s (s.cutTx (portOf p)) := by
  unfold State.cutTx
  cases h : (s.port (portOf p)).tx with
  | none => exact .nil rfl rfl
  | some x =>
    have same : ((s.closeTx (portOf p) .cut).releaseShared p x.frame).free = (s.releaseShared p x.frame).free := by
      have holds : (s.closeTx (portOf p) .cut).portHolds (otherPort p) x.frame = s.portHolds (otherPort p) x.frame :=
        State.portHolds_congr rfl (congrArg PortState.tx (s.port_setPort_other _ (portOf_otherPort_ne p)))
      rw [State.releaseShared_eq, State.releaseShared_eq, holds]
      rfl
    simp only [State.releaseTx_portOf]
    refine .single same ?_
    rw [State.releaseShared_eq]
    rfl

/-! ### The loss of a field link up to its notice (R98) -/

/-- What a field port drops at a loss of its link: its reception, its transmission and its command queue (R98, steps 1 to 3). -/
def State.fieldDropped (s : State) (p : FPort) : State :=
  (((s.setLink (portOf p) .down).abandon (portOf p) .aborted).cutTx (portOf p)).flush (.command p)

theorem State.fieldLinkLoss_eq (s : State) (p : FPort) : s.fieldLinkLoss p =
    (((s.fieldDropped p).pathsLinkLoss p).forceResolve (otherPort p)).detect (portOf p) := rfl

theorem PerPort.set_set {α : Type} (x : PerPort α) (q : Port) (a b : α) : (x.set q a).set q b = x.set q b := by
  cases q <;> rfl

/-- What is dropped writes the port, the pool, the port's command queue, global counters and the lost count alone. -/
theorem State.fieldDropped_frame (s : State) (p : FPort) : ∃ pr fr g n, s.fieldDropped p =
    { s with ports := s.ports.set (portOf p) pr, free := fr, command := s.command.set p [], globalCtrs := g,
             noticesLost := n } := by
  have abandons : ∀ u : State, ∃ pr fr, u.abandon (portOf p) .aborted =
      { u with ports := u.ports.set (portOf p) pr, free := fr } := fun u => ⟨_, _, u.abandon_eq (portOf p) .aborted⟩
  have cuts : ∀ u : State, ∃ pr fr n, u.cutTx (portOf p) =
      { u with ports := u.ports.set (portOf p) pr, free := fr, noticesLost := n } := fun u => by
    obtain ⟨fr, e, n, cut⟩ := u.cutTx_frame (portOf p)
    exact ⟨_, fr, n, cut⟩
  obtain ⟨pr, fr, abandoned⟩ := abandons (s.setLink (portOf p) .down)
  obtain ⟨pr', fr', n, cut⟩ := cuts ((s.setLink (portOf p) .down).abandon (portOf p) .aborted)
  obtain ⟨fr'', g, n', flushed⟩ :=
    (((s.setLink (portOf p) .down).abandon (portOf p) .aborted).cutTx (portOf p)).flush_frame (.command p)
  refine ⟨pr', fr'', g, n', flushed.trans ?_⟩
  rw [cut, abandoned]
  simp only [State.setLink_eq, State.setPort, PerPort.set_set]
  rfl

theorem State.fieldDropped_port (s : State) (p : FPort) : (s.fieldDropped p).port (portOf p) = { s.port (portOf p) with
    link := .down
    reception := none
    tx := none
    lastEnd := if (s.port (portOf p)).tx.isSome = true then some .cut else (s.port (portOf p)).lastEnd
    counters := (fun v => if (s.port (portOf p)).tx.isSome = true then bumpAt v (portCtrIdx .txAborted) else v)
      (if (s.port (portOf p)).reception.isSome = true then bumpAt (s.port (portOf p)).counters (portCtrIdx .aborted)
        else (s.port (portOf p)).counters) } := by
  have kept : ∀ u : State, (u.flush (.command p)).port (portOf p) = u.port (portOf p) := fun u => by
    simp only [State.port, (u.flush_flushes (.command p)).1.ports]
  unfold State.fieldDropped
  rw [kept, State.cutTx_port, State.abandon_eq]
  simp only [State.port_returnCells, State.port_setPort_self, State.setLink_eq]

theorem State.fieldDropped_counter (s : State) (p : FPort) (c : PortCtr) : (s.fieldDropped p).portCounter (portOf p) c =
    if c = .aborted ∧ (s.port (portOf p)).reception.isSome = true ∨ c = .txAborted ∧ (s.port (portOf p)).tx.isSome = true
    then satInc 32 (s.portCounter (portOf p) c) else s.portCounter (portOf p) c := by
  rw [State.portCounter, State.fieldDropped_port]
  simp only [bumpAt_portCtr, State.portCounter]
  cases c <;> simp

theorem State.fieldDropped_globalCounter (s : State) (p : FPort) (c : GlobalCtr) :
    (s.fieldDropped p).globalCounter c = if c = .flushed (.command p)
      then (satInc 32)^[(s.command.get p).length] (s.globalCounter c) else s.globalCounter c := by
  unfold State.fieldDropped
  rw [State.flush_globalCounter, State.abandon_eq]
  obtain ⟨fr, e, n, cut⟩ := State.cutTx_frame
    (((s.setLink (portOf p) .down).setPort (portOf p) _).returnCells _) (portOf p)
  rw [cut]
  rfl

theorem State.fieldDropped_letsGo (s : State) (p : FPort) :
    LetsGo p ((s.port (portOf p)).tx.toList ++ s.command.get p) (s.returnCells (s.receptionCells (portOf p)))
      (s.fieldDropped p) := by
  have other := portOf_otherPort_ne p
  have start : (s.setLink (portOf p) .down).receptionCells (portOf p) = s.receptionCells (portOf p) := by
    simp only [State.receptionCells, State.setLink_eq, State.port_setPort_self]
  unfold State.fieldDropped
  rw [State.abandon_eq, start]
  generalize hv : State.returnCells (State.setPort (s.setLink (portOf p) .down) (portOf p) _) _ = v
  have tx : ∀ q, (v.port q).tx = (s.port q).tx := fun q => by
    rw [← hv, State.port_returnCells, State.setLink_eq]
    by_cases hq : q = portOf p
    · subst hq
      simp only [State.port_setPort_self]
    · simp only [State.port_setPort_other _ _ hq]
  have command : v.command = s.command := by rw [← hv]; rfl
  have holds : ∀ f, v.portHolds (otherPort p) f = s.portHolds (otherPort p) f := fun f =>
    State.portHolds_congr (by rw [command]) (tx _)
  have cutHolds : ∀ f, (v.cutTx (portOf p)).portHolds (otherPort p) f = v.portHolds (otherPort p) f := fun f => by
    obtain ⟨fr, e, n, cut⟩ := State.cutTx_frame v (portOf p)
    rw [cut]
    exact State.portHolds_congr rfl (congrArg PortState.tx (v.port_setPort_other _ other))
  have queue : (v.cutTx (portOf p)).command.get p = s.command.get p := by
    obtain ⟨fr, e, n, cut⟩ := State.cutTx_frame v (portOf p)
    rw [cut, ← command]
    rfl
  have whole := (cutTx_letsGo v p).append (flush_letsGo _ p) cutHolds
  rw [queue, tx] at whole
  refine ⟨whole.free.trans ?_, whole.lost.trans ?_⟩
  · rw [← hv] at holds ⊢
    simp only [State.unsharedCells, holds]
    rfl
  · rw [← hv]
    rfl

end Sys2Proof.Machine
end

section
/-! SUPPORT. The loss of a field link from its command on: paths, notice, settled copies, and O11 (R53, R74, R80). -/

namespace Sys2Proof.Machine

variable {s : State} {p : FPort}

/-! ### What follows at once on a DOWN field port -/

theorem State.detect_silent {q : Port} (h : (s.port q).signal = false) : s.detect q = s := by
  rw [State.detect, if_neg fun hc => Bool.false_ne_true (h.symm.trans hc.2.1)]

theorem State.startTx_down {q : Port} (h : s.linkUp q = false) : s.startTx q = s := by
  rw [State.startTx, h, Bool.and_false]
  rfl

/-- A transmitter that starts on one port leaves another port's transmission alone. -/
theorem State.startTx_port_other {q q' : Port} (h : q' ≠ q) : (s.startTx q).port q' = s.port q' := by
  unfold State.startTx State.sendHead
  split
  · split
    · split
      · rfl
      · rw [State.setTx_eq, State.port_setPort_other _ _ h, State.port_setQueue]
    · rfl
  · rfl

/-- The command queue of a field port is served on that port alone (R110). -/
theorem State.startTx_command_other {q : Port} (h : q ≠ portOf p) : (s.startTx q).command.get p = s.command.get p := by
  unfold State.startTx
  split
  · split
    · next src hsrc =>
      have apart : (QueueId.command p) ≠ src := by
        rintro rfl
        by_cases hl : q = .l
        · subst hl
          simp only [State.txSource, State.firstQueue] at hsrc
          repeat' split at hsrc
          all_goals cases hsrc
        · obtain ⟨fp, e, hq⟩ := State.txSource_field hl hsrc
          cases e
          exact h hq
      unfold State.sendHead
      split
      · rfl
      · exact s.queue_setQueue_other _ apart
    · rfl
  · rfl

/-- While a field link is not UP, what follows at once leaves its transmitter and its command queue alone (R96). -/
theorem State.settle_fieldDown (h : s.linkUp (portOf p) = false) :
    s.settle.port (portOf p) = s.port (portOf p) ∧ s.settle.command.get p = s.command.get p := by
  refine (State.settle_induct (P := fun u => u.linkUp (portOf p) = false ∧ u.port (portOf p) = s.port (portOf p) ∧
    u.command.get p = s.command.get p) ⟨h, rfl, rfl⟩ (fun u hu => ?_) fun u q hu => ?_).2
  · obtain ⟨sr, lost, n, ln, fr, e, _⟩ := u.feedNotices_spec
    rw [e]
    exact hu
  · by_cases hq : q = portOf p
    · subst hq
      rw [State.startTx_down hu.1]
      exact hu
    · obtain ⟨down, port, command⟩ := hu
      have same : (u.startTx q).port (portOf p) = u.port (portOf p) := State.startTx_port_other (Ne.symm hq)
      exact ⟨(congrArg (fun x : PortState => x.link.isUp) same).trans down, same.trans port,
        (State.startTx_command_other hq).trans command⟩

/-! ### Paths LOST (R80) -/

theorem losesPath_eq (p : FPort) (x : Option Stream) :
    losesPath p x = x.any (fun st => !st.suspended && !(st.path p).isLost) := by
  cases x <;> rfl

theorem Stream.pathOnLinkLoss_eq (p : FPort) (now : Word32) (st : Stream) : st.pathOnLinkLoss p now =
    if st.suspended = true ∨ (st.path p).isLost = true then st else { st with paths := st.paths.set p (.lost now) } := by
  simp only [Stream.pathOnLinkLoss, Bool.or_eq_true]
  rfl

/-- The paths of a stream after the link loss of a field port: the other path stands, and so does the path on that port when
the slot is SUSPENDED or the path LOST; else it is LOST now (R80). -/
theorem Stream.pathOnLinkLoss_path (p : FPort) (now : Word32) (st : Stream) :
    (st.pathOnLinkLoss p now).path (otherPort p) = st.path (otherPort p) ∧
      (st.suspended = true → (st.pathOnLinkLoss p now).path p = st.path p) ∧
      (st.suspended = false → (st.path p).isLost = true → (st.pathOnLinkLoss p now).path p = st.path p) ∧
      (st.suspended = false → (st.path p).isLost = false → (st.pathOnLinkLoss p now).path p = .lost now) := by
  rw [Stream.pathOnLinkLoss_eq]
  split
  · next stands =>
    refine ⟨rfl, fun _ => rfl, fun _ _ => rfl, fun active up => ?_⟩
    simp [active, up] at stands
  · next lost =>
    rw [not_or] at lost
    exact ⟨PerField.get_set_other _ _ (otherPort_ne p), fun suspended => absurd suspended lost.1,
      fun _ isLost => absurd isLost lost.2, fun _ _ => PerField.get_set_self _ _ _⟩

/-! ### The command -/

/-- The loss of a field link by a loss of signal, up to its PORT_DOWN notice: what the port drops, and the paths LOST
(R80, R98). -/
def State.fieldLost (s : State) (p : FPort) : State :=
  ((s.setSignal (portOf p) false).fieldDropped p).mapAllStreams (Stream.pathOnLinkLoss p s.count)

/-- What it writes: the port, streams, the pool, the port's command queue, global counters and the lost count. -/
theorem State.fieldLost_frame (s : State) (p : FPort) : ∃ pr fr g n, s.fieldLost p =
    { s with ports := s.ports.set (portOf p) pr, slots := s.slots.map (Option.map (Stream.pathOnLinkLoss p s.count)),
             free := fr, command := s.command.set p [], globalCtrs := g, noticesLost := n } := by
  obtain ⟨pr, fr, g, n, e⟩ := (s.setSignal (portOf p) false).fieldDropped_frame p
  refine ⟨pr, fr, g, n, ?_⟩
  rw [State.fieldLost, e]
  simp only [State.mapAllStreams, State.setSignal_eq, State.setPort, PerPort.set_set]

theorem State.fieldLost_control (s : State) (p : FPort) : SameControl s (s.fieldLost p) := by
  obtain ⟨pr, fr, g, n, e⟩ := s.fieldLost_frame p
  rw [e]
  constructor <;> rfl

theorem State.fieldLost_stream (s : State) (p : FPort) (k : Fin 64) :
    (s.fieldLost p).stream k = (s.stream k).map (Stream.pathOnLinkLoss p s.count) := by
  obtain ⟨pr, fr, g, n, e⟩ := s.fieldLost_frame p
  rw [e]
  exact s.stream_mapAllStreams _ k

theorem State.fieldLost_held (s : State) (p : FPort) (r : Fin 8) : (s.fieldLost p).held r = s.held r := by
  obtain ⟨pr, fr, g, n, e⟩ := s.fieldLost_frame p
  rw [e]
  rfl

theorem State.fieldLost_other {q : Port} (h : q ≠ portOf p) : (s.fieldLost p).port q = s.port q := by
  obtain ⟨pr, fr, g, n, e⟩ := s.fieldLost_frame p
  rw [e]
  exact PerPort.get_set_other _ _ h

theorem State.fieldLost_command (s : State) (p : FPort) : (s.fieldLost p).command.get p = [] := by
  obtain ⟨pr, fr, g, n, e⟩ := s.fieldLost_frame p
  rw [e]
  exact PerField.get_set_self _ _ _

/-- The port after the loss: DOWN and silent, without reception or transmission, its transmission closed as cut (R97, R98). -/
theorem State.fieldLost_port (s : State) (p : FPort) : (s.fieldLost p).port (portOf p) = { s.port (portOf p) with
    signal := false, link := .down, reception := none, tx := none
    counters := ((s.fieldLost p).port (portOf p)).counters
    lastEnd := if (s.port (portOf p)).tx.isSome = true then some .cut else (s.port (portOf p)).lastEnd } := by
  have port : (s.fieldLost p).port (portOf p) = _ := (s.setSignal (portOf p) false).fieldDropped_port p
  rw [port]
  simp only [State.setSignal_eq, State.port_setPort_self]

theorem State.fieldLost_counter (s : State) (p : FPort) (c : PortCtr) : (s.fieldLost p).portCounter (portOf p) c =
    if c = .aborted ∧ (s.port (portOf p)).reception.isSome = true ∨ c = .txAborted ∧ (s.port (portOf p)).tx.isSome = true
    then satInc 32 (s.portCounter (portOf p) c) else s.portCounter (portOf p) c := by
  have counter : (s.fieldLost p).portCounter (portOf p) c = _ :=
    (s.setSignal (portOf p) false).fieldDropped_counter p c
  rw [counter]
  simp only [State.portCounter, State.setSignal_eq, State.port_setPort_self]

theorem State.fieldLost_letsGo (s : State) (p : FPort) :
    LetsGo p ((s.port (portOf p)).tx.toList ++ s.command.get p) (s.returnCells (s.receptionCells (portOf p)))
      (s.fieldLost p) := by
  have go := (s.setSignal (portOf p) false).fieldDropped_letsGo p
  have holds : ∀ f, (s.setSignal (portOf p) false).portHolds (otherPort p) f = s.portHolds (otherPort p) f := fun f =>
    State.portHolds_congr rfl (congrArg PortState.tx (s.port_setPort_other _ (portOf_otherPort_ne p)))
  have cells : (s.setSignal (portOf p) false).receptionCells (portOf p) = s.receptionCells (portOf p) := by
    simp only [State.receptionCells, State.setSignal_eq, State.port_setPort_self]
  have tx : ((s.setSignal (portOf p) false).port (portOf p)).tx = (s.port (portOf p)).tx := by
    simp only [State.setSignal_eq, State.port_setPort_self]
  rw [tx, cells] at go
  refine ⟨go.free.trans ?_, go.lost⟩
  show _ ++ State.unsharedCells (s.setSignal (portOf p) false) p _ = _
  simp only [State.unsharedCells, holds]
  rfl

/-- After the loss and its notice, the copies that the other port's repair slots hold are resolved alone (R53). -/
def State.fieldLossSettled (s : State) (p : FPort) : State :=
  ((s.fieldLost p).raiseNotice (.portDown p s.count (s.pathsToLose p))).forceResolve (otherPort p)

theorem State.fieldLossSettled_resolves (s : State) (p : FPort) : Resolves (s.fieldLost p) (s.fieldLossSettled p) :=
  (State.raiseNotice_resolves _ _).trans (State.forceResolve_resolves _ _)

theorem State.pathsToLose_congr {v : State} (h : ∀ k, v.stream k = s.stream k) : v.pathsToLose p = s.pathsToLose p := by
  simp only [State.pathsToLose, h]

/-- A loss of signal on an UP field port is that loss of link, and then follows what the part does at once: no signal is there to
be detected again (R87, R89, R98). -/
theorem signalLost_settles {errors : List Nat} (hp : s.phase = .running) (hu : (s.port (portOf p)).link = .up errors) :
    Settles (.signalLost (portOf p)) s (s.fieldLossSettled p) := by
  have up : ((s.setSignal (portOf p) false).port (portOf p)).link = .up errors := by
    rw [State.setSignal_eq, State.port_setPort_self]
    exact hu
  have loses : (s.setSignal (portOf p) false).loseSignal (portOf p) = (s.setSignal (portOf p) false).fieldLinkLoss p := by
    rw [State.loseSignal, up]
    cases p <;> rfl
  obtain ⟨count, streams⟩ : ((s.setSignal (portOf p) false).fieldDropped p).count = s.count ∧
      ∀ k, ((s.setSignal (portOf p) false).fieldDropped p).stream k = s.stream k := by
    obtain ⟨pr, fr, g, n, e⟩ := (s.setSignal (portOf p) false).fieldDropped_frame p
    rw [e]
    exact ⟨rfl, fun _ => rfl⟩
  have settled : ((s.setSignal (portOf p) false).fieldDropped p).pathsLinkLoss p =
      (s.fieldLost p).raiseNotice (.portDown p s.count (s.pathsToLose p)) := by
    rw [State.pathsLinkLoss, count, State.pathsToLose_congr streams]
    rfl
  have silent : ((s.fieldLossSettled p).port (portOf p)).signal = false := by
    rw [(s.fieldLossSettled_resolves p).port, State.fieldLost_port]
  have running : (s.setSignal (portOf p) false).phase = .running := hp
  rw [Settles]
  simp only [exec, execSignalLost, whenRunning_running running, loses, State.fieldLinkLoss_eq, settled]
  exact congrArg (fun w => Host.Outcome.next (State.settle w)) (State.detect_silent silent)

/-- A forced resolution, by what it does at each repair slot in ascending order: nothing where none is held or another port's
copy is, else that copy is resolved alone (R53, R74). -/
theorem State.forceResolve_eq_foldl (s : State) {f : State → Fin 8 → State} (free : ∀ x r, x.held r = none → f x r = x)
    (held : ∀ x r h, x.held r = some h →
      f x r = if h.port = p then (x.setHeld r none).resolve (heldSubject h none) else x) :
    s.forceResolve p = allRepair.foldl f s := by
  unfold State.forceResolve
  congr 1
  funext x r
  cases hr : x.held r with
  | none => exact (free x r hr).symm
  | some h =>
    rw [State.resolveHeld_alone hr, held x r h hr]
    simp only [Option.any_some, beq_iff_eq]

/-- What a link loss leaves of a stream once the copies are settled and what follows at once is done (R80). -/
theorem State.fieldLossSettled_stream {k : Fin 64} {st : Stream} (hk : s.stream k = some st) :
    ∃ st', (s.fieldLossSettled p).stream k = some st' ∧ SamePlan (st.pathOnLinkLoss p s.count) st' := by
  have slot := (s.fieldLossSettled_resolves p).slots k
  rw [State.fieldLost_stream, hk, Option.map_some] at slot
  cases hj : (s.fieldLossSettled p).stream k with
  | none => rw [hj] at slot; exact slot.elim
  | some st' => rw [hj] at slot; exact ⟨st', rfl, slot⟩

theorem State.fieldLossSettled_held (s : State) (p : FPort) (r : Fin 8) : (s.fieldLossSettled p).held r =
    if (s.held r).any (fun h => h.port == otherPort p) = true then none else s.held r := by
  rw [State.fieldLossSettled, State.held_forceResolve, State.held_raiseNotice, State.fieldLost_held]

/-- Settles O11: the state after the loss, then what the notice, the settled copies and what follows at once leave alone. -/
theorem fieldLinkLoss : Obligations.FieldLinkLoss := by
  intro s p errors hp hu
  have settles := signalLost_settles hp hu
  have port := s.fieldLost_port p
  have counter := s.fieldLost_counter p
  constructor
  · have resolves := s.fieldLossSettled_resolves p
    have egress := (s.fieldLossSettled p).settle_egress
    have down : (s.fieldLossSettled p).linkUp (portOf p) = false := by
      rw [State.linkUp, resolves.port, port]
      rfl
    obtain ⟨quiet, queue⟩ := State.settle_fieldDown down
    have control := ((s.fieldLost_control p).trans resolves.step.control).trans
      (s.fieldLossSettled p).settle_step.control
    have portAfter : (s.fieldLossSettled p).settle.port (portOf p) = (s.fieldLost p).port (portOf p) :=
      quiet.trans (resolves.port _)
    have counterAfter : ∀ c, (s.fieldLossSettled p).settle.portCounter (portOf p) c = _ := fun c =>
      (congrArg (fun x : PortState => x.counters[portCtrIdx c]) portAfter).trans (counter c)
    refine ⟨_, settles, by rw [portAfter, port], by rw [portAfter, port], by rw [portAfter, port], ?_, ?_, ?_,
      fun k st hk => ?_, fun r h hr => ?_, fun q hq => ?_, control.agent, control.staging, control.op, control.banks,
      control.globals, control.generation, control.count⟩
    · rw [queue, resolves.command]
      exact s.fieldLost_command p
    · rw [counterAfter]
      simp
    · rw [counterAfter]
      simp
    · obtain ⟨st', stream, plan⟩ := State.fieldLossSettled_stream (p := p) hk
      obtain ⟨other, suspended, stands, lost⟩ := st.pathOnLinkLoss_path p s.count
      have entry := Stream.pathOnLinkLoss_entry p s.count st
      have path : ∀ q, st'.path q = (st.pathOnLinkLoss p s.count).path q := fun q => by
        simp only [Stream.path, plan.paths]
      exact ⟨st', (egress.stream k).trans stream, plan.cfg.trans entry.cfg, plan.locked.trans entry.locked,
        plan.suspended.trans entry.suspended, (path _).trans other, fun h => (path _).trans (suspended h),
        fun h g => (path _).trans (stands h g), fun h g => (path _).trans (lost h g)⟩
    · rw [egress.held, State.fieldLossSettled_held, hr]
      simp only [Option.any_some, beq_iff_eq]
    · rw [egress.link, egress.reception, resolves.port, State.fieldLost_other hq]
      exact ⟨rfl, rfl⟩
  · intro settleCopy frames
    have go := s.fieldLost_letsGo p
    refine ⟨s.fieldLost p, ?_, ?_, fun q hq => State.fieldLost_other hq, port, counter, fun k => ?_, fun c => ?_, go.lost, ?_⟩
    · have lost : s.pathsToLose p = (allSlots.filter (fun k =>
          (s.stream k).any (fun st => !st.suspended && !(st.path p).isLost))).length := by
        simp only [State.pathsToLose, losesPath_eq]
      have resolved := ((s.fieldLost p).raiseNotice (.portDown p s.count (s.pathsToLose p))).forceResolve_eq_foldl
        (p := otherPort p) (f := settleCopy) (fun x r e => by simp only [settleCopy, e])
        (fun x r h e => by simp only [settleCopy, e]; rfl)
      rw [← lost, ← resolved]
      exact settles
    · obtain ⟨pr, fr, g, n, e⟩ := s.fieldLost_frame p
      rw [e]
    · rw [State.fieldLost_stream]
      simp only [← Stream.pathOnLinkLoss_eq]
    · exact (s.setSignal (portOf p) false).fieldDropped_globalCounter p c
    · exact go.free

end Sys2Proof.Machine
end

section
/-! SUPPORT. The header sent on L: the fields of a built header, header byte 0 as rewritten, and O27 (R70 to R72, R176). -/

namespace Sys2Proof.Machine

/-! ### The fields of a built header (Table 12-1) -/

section
variable (b0 b1 : Byte) (id : Id12) (seq : Word16) (stamp : Byte) (rest : List Byte)

/-- Bytes 0 to 6 of a header (Table 12-1). -/
def headerFields (b0 b1 : Byte) (count : Nat) (id : Id12) (seq : Word16) (stamp : Byte) : List Byte :=
  [b0, b1] ++ be16 (BitVec.ofNat 4 (count - 1) ++ id) ++ be16 seq ++ [stamp]

theorem header_eq_fields (count : Nat) : header b0 b1 count id seq stamp =
    headerFields b0 b1 count id seq stamp ++ [crc8 (headerFields b0 b1 count id seq stamp)] := rfl

/-- A header carries its own check (R72). -/
theorem headerSound_header (count : Nat) : headerSound (header b0 b1 count id seq stamp ++ rest) = true := by
  rw [header_eq_fields, List.append_assoc]
  generalize hf : headerFields b0 b1 count id seq stamp = fields
  have seven : fields.length = 7 := by rw [← hf]; rfl
  have check : byteAt (fields ++ ([crc8 fields] ++ rest)) 7 = crc8 fields := by
    rw [← seven]
    exact byteAt_append_right fields ([crc8 fields] ++ rest) 0
  rw [headerSound, check, List.take_left' seven, beq_self_eq_true]

/-- Bytes 2 and 3 hold the count, less one, over the id (R176). -/
theorem word16At_header (count : Nat) :
    word16At (header b0 b1 count id seq stamp ++ rest) 2 = BitVec.ofNat 4 (count - 1) ++ id :=
  be16_joined _

/-- A count from 1 to 16 is read back (R176). -/
theorem frameCount_header {count : Nat} (pos : 1 ≤ count) (le : count ≤ 16) :
    frameCount (header b0 b1 count id seq stamp ++ rest) = count := by
  rw [frameCount, word16At_header, BitVec.extractLsb'_append_eq_left, BitVec.toNat_ofNat]
  omega

theorem frameId_header (count : Nat) : frameId (header b0 b1 count id seq stamp ++ rest) = id := by
  rw [frameId, word16At_header, BitVec.extractLsb'_append_eq_right]

theorem frameSeq_header (count : Nat) : frameSeq (header b0 b1 count id seq stamp ++ rest) = seq :=
  be16_joined seq

end

/-! ### Header byte 0 on L (R70) -/

/-- The rewrite keeps bits 7 and 6, the size code (Table 12-1). -/
theorem sizeOfCode_rewritten (b : Byte) (k : Kind) : sizeOfCode ((b &&& 0xC0#8) ||| kindCode k) = sizeOfCode b := by
  have bits : ((b &&& 0xC0#8) ||| kindCode k).extractLsb' 6 2 = b.extractLsb' 6 2 := by
    have code : (kindCode k).extractLsb' 6 2 = 0#2 := by cases k <;> rfl
    have mask : (0xC0#8).extractLsb' 6 2 = BitVec.allOnes 2 := rfl
    rw [BitVec.extractLsb'_or, BitVec.extractLsb'_and, mask, code, BitVec.and_allOnes, BitVec.or_zero]
  rw [sizeOfCode, sizeOfCode, bits]

/-- The rewrite puts the kind in bits 3 to 0 (Table 12-1). -/
theorem kindField_rewritten (b : Byte) (k : Kind) : ((b &&& 0xC0#8) ||| kindCode k) &&& 0x0F#8 = kindCode k := by
  have code : kindCode k &&& 0x0F#8 = kindCode k := by cases k <;> rfl
  have mask : 0xC0#8 &&& 0x0F#8 = 0#8 := rfl
  rw [BitVec.and_or_distrib_right, BitVec.and_assoc, mask, code, BitVec.and_zero, BitVec.zero_or]

theorem kindOfCode_kindCode (k : Kind) : kindOfCode (kindCode k) = some k := by cases k <;> rfl

/-- Settles O27: the fields of the built header, and byte 0 with the received size code and kind DATA. -/
theorem rewrittenHeader : Obligations.RewrittenHeader := by
  intro f flags n lineId stamp _ pos le g
  have kind : frameKind g = some .data :=
    (congrArg kindOfCode (kindField_rewritten (byteAt f 0) .data)).trans (kindOfCode_kindCode .data)
  exact ⟨headerSound_header .., kind, sizeOfCode_rewritten (byteAt f 0) .data, rfl, frameCount_header _ _ _ _ _ _ pos le,
    frameId_header .., frameSeq_header .., rfl, rfl⟩

end Sys2Proof.Machine
end

section
/-! SUPPORT. A resolution whole: steps 3 to 6 where the frame is dropped, the flag byte, O29, and with it O26 (R61 to R64, R71,
R73). -/

namespace Sys2Proof.Machine

variable {s w : State} {st : Stream} {x : Subject} {f : Frame} {n : Nat} {trimmed damaged : Bool}

/-! ### Steps 3 to 6 where the frame is dropped -/

/-- Step 3 while L is not UP (R63). -/
theorem Routes.forward_lineDown (h : Routes s w x.slot st) (down : s.linkUp .l = false) :
    w.forward x f n trimmed damaged = (w.returnCells f.cells).bumpStream x.slot .lineDown := by
  obtain ⟨st', stream, -⟩ := h.stream
  exact State.forward_lineDown stream (h.linkUp.trans down)

/-- Step 4 of a policed stream without credits (R64). -/
theorem Routes.forward_policed (h : Routes s w x.slot st) (up : s.linkUp .l = true) (burst : st.cfg.burst ≠ 0#8)
    (spent : st.credits = 0#8) :
    w.forward x f n trimmed damaged = (w.returnCells f.cells).bumpStream x.slot .policed := by
  obtain ⟨st', stream, route⟩ := h.stream
  exact State.forward_policed stream (h.linkUp.trans up) (by rw [route.plan.cfg]; exact burst) (route.credits.trans spent)

/-- Step 6 where the class queue has no room: the credit is taken, then the frame dropped as CLASS_FULL (R64, R73). -/
theorem Routes.forward_full (h : Routes s w x.slot st) (up : s.linkUp .l = true)
    (credit : st.cfg.burst = 0#8 ∨ st.credits ≠ 0#8)
    (full : s.globals.limits[st.cfg.cls].toNat < cellCount (s.queue (.cls st.cfg.cls)) + f.cells.length) :
    w.forward x f n trimmed damaged =
      (((w.mapStream x.slot (fun y => { y with credits := creditsAfter st })).returnCells f.cells).bumpStream x.slot
        .classFull).bumpGlobal (.classFull st.cfg.cls) := by
  obtain ⟨st', stream, route⟩ := h.stream
  rw [State.forward_passes stream (h.linkUp.trans up) (route.policed.trans (policed_passes credit)), route.plan.cfg]
  refine State.enqueueClass_full (decide_eq_false ?_)
  show ¬ cellCount ((w.setSlot x.slot _).queue _) + f.cells.length ≤ w.globals.limits[st.cfg.cls].toNat
  rw [State.queue_setSlot, h.queue, h.globals]
  exact Nat.not_le.2 full

/-! ### The flag byte (R71) -/

/-- A flag of a byte is its bit alone. -/
theorem getLsbD_flag {c : Prop} [Decidable c] {b : Byte} {i : Nat} (hb : b = BitVec.twoPow 8 i) (hi : i < 8) (j : Nat) :
    (if c then b else 0#8).getLsbD j = (decide c && decide (i = j)) := by
  split
  · next hc => simp [hb, hi, hc, BitVec.getLsbD_twoPow]
  · next hc => simp [hc]

/-- The bits of header byte 1 (Table 12-1). -/
theorem getLsbD_flagByte (damaged trimmed merged solo : Bool) (via : FPort) (j : Nat) :
    (flagByte damaged trimmed merged solo via).getLsbD j =
      (damaged && decide (0 = j) || trimmed && decide (1 = j) || merged && decide (2 = j) || solo && decide (3 = j) ||
        decide (via = .f1) && decide (4 = j)) := by
  simp only [flagByte, BitVec.getLsbD_or, getLsbD_flag (b := 1#8) (i := 0) rfl (by decide),
    getLsbD_flag (b := 2#8) (i := 1) rfl (by decide), getLsbD_flag (b := 4#8) (i := 2) rfl (by decide),
    getLsbD_flag (b := 8#8) (i := 3) rfl (by decide), getLsbD_flag (b := 16#8) (i := 4) rfl (by decide),
    Bool.decide_eq_true]

/-! ### The resolution -/

/-- The policies that drop a frame whose lowest bad partition is `j` (Table 3-3). -/
theorem policyOutcome_dropped {pol : DamagePolicy} {good : List Bool} {j : Nat} (lowest : lowestBad good = some j)
    (drops : pol = .whole ∨ (pol = .trim ∧ j = 0)) : policyOutcome pol good = .dropped j := by
  obtain ⟨whole, trim, -⟩ := policyOutcome_bad lowest
  rcases drops with rfl | ⟨rfl, rfl⟩
  · exact whole
  · exact trim

/-- Settles O29: the drop of step 2, each end of steps 3 to 6 of a frame handed on, and the flag byte bit by bit. -/
theorem resolution : Obligations.Resolution := by
  refine ⟨fun s x st hk => ⟨fun j bad before drops => ?_, fun w f n trimmed damaged after => ?_⟩,
    fun damaged trimmed merged solo via => ?_⟩
  · exact State.resolve_dropped hk (policyOutcome_dropped (lowestBad_some bad before) drops)
  · have routes : Routes s w x.slot st := (Routes.recorded hk x.seq x.mark).afterPolicy after
    rw [State.resolve_afterPolicy hk after]
    exact ⟨routes.forward_lineDown, routes.forward_policed, fun up credit =>
      ⟨routes.forward_full up credit, routes.forward up credit⟩⟩
  · have via_f1 : decide (via = .f1) = (via == .f1) := rfl
    simp only [getLsbD_flagByte]
    simp [via_f1]

/-! ### An all-good NEW copy that is not forwarded -/

/-- The partition checks leave a stream's configuration and credits (R42, R77). -/
theorem checkedStream_policing (p : FPort) (st : Stream) (good : Bool) :
    (checkedStream p st good).cfg = st.cfg ∧ (checkedStream p st good).credits = st.credits := by
  cases good <;> exact ⟨rfl, rfl⟩

/-- Settles O26: the resolution of a copy that the policy step hands on whole, from the state after the partition checks. -/
theorem newCopyNotForwarded : Obligations.NewCopyNotForwarded := by
  intro s p k st r h hn new allGood u
  have stream := State.copyChecked_stream h
  obtain ⟨cfg, credits⟩ := checkedStream_policing p st (copyOf p k st r).allGood
  obtain ⟨globals, -⟩ := State.copyChecked_fields h
  obtain ⟨lineDown, policed, passes⟩ := (resolution.1 _ (copyOf p k st r).subject _ stream).2 _ _ _ _ _ (.whole allGood)
  have settles := fun {t : State} (ht : (s.copyChecked p k st r).resolve (copyOf p k st r).subject = t) =>
    copyEnds_settles h hn ((State.classifyCopy_new new allGood).trans ht)
  simp only [creditsAfter, cfg, credits, State.copyChecked_linkUp h, State.copyChecked_queue h, globals]
    at lineDown policed passes
  exact ⟨fun down => settles (lineDown down), fun up burst spent => settles (policed up burst spent),
    fun up credit full => settles ((passes up credit).1 full)⟩

end Sys2Proof.Machine
end

section
/-! SUPPORT. The run-outs of the path, interval and lease timers, the millisecond count, and O32 (R66, R78, R85, R124, R154). -/

namespace Sys2Proof.Machine

variable {s : State} {k : Fin 64} {st : Stream}

/-! ### The stream of an ACTIVE slot -/

theorem State.activeStream_active (hk : s.stream k = some st) (active : st.suspended = false) :
    s.activeStream k = some st := by
  simp [State.activeStream, hk, active]

theorem State.mapStream_some (hk : s.stream k = some st) (f : Stream → Stream) :
    s.mapStream k f = s.setSlot k (some (f st)) := by
  rw [State.mapStream_eq, hk, Option.map_some]

/-! ### The run-outs of running timers -/

/-- A path timer that runs out leaves its path LOST at the present count, with the notice (R78, R85). -/
theorem State.pathTimeout_running {p : FPort} {d : Byte} (hk : s.stream k = some st) (active : st.suspended = false)
    (up : st.path p = .up (some d)) :
    s.pathTimeout k p = (s.setSlot k (some (st.setPath p (.lost s.count)))).raiseNotice
      (.pathLost k st.cfg.fieldId p d s.count) := by
  have runs : s.runningPathTimer k p = some (st, d) := by
    simp [State.runningPathTimer, State.activeStream_active hk active, up]
  simp only [State.pathTimeout, runs, State.mapStream_some hk]

/-- An interval timer that runs out refills the credits and starts afresh (R66). -/
theorem State.intervalTimeout_running {d : Byte} (hk : s.stream k = some st) (active : st.suspended = false)
    (timer : st.intervalTimer = some d) : s.intervalTimeout k = s.setSlot k (some st.refill) := by
  have runs : (s.activeStream k).any (fun st => st.intervalTimer.isSome) = true := by
    simp [State.activeStream_active hk active, timer]
  rw [State.intervalTimeout, if_pos runs, State.mapStream_some hk]

/-- A lease timer that runs out ends the lease and names its holder (R124). -/
theorem State.leaseTimeout_running {m : Word16} {d : Byte} (lease : s.agent.lease = some ⟨m, some d⟩) :
    s.leaseTimeout = s.endLease.raiseNotice (.sessionExpired m) := by
  have runs : s.runningLease = some m := by simp [State.runningLease, lease]
  simp only [State.leaseTimeout, runs]

/-- The time base counts through the load and while the part runs (R154). -/
theorem State.tick_counts (h : s.phase = .running ∨ s.phase = .loading) :
    s.tick = { s with count := s.count + 1, uptime := s.uptime + 1 } := if_pos h.symm

/-- Settles O32: each command does its timer's run-out and what follows at once; the tick has nothing that follows. -/
theorem timersRunOut : Obligations.TimersRunOut := by
  refine ⟨fun s k p st d hp hk active up => ?path, fun s k st d hp hk active timer => ?interval,
    fun s m d hp lease => ?lease, fun s counts => ?tick⟩
  case path =>
    rw [Settles, exec, execPathTimerRunOut, whenRunning_running hp, State.pathTimeout_running hk active up]
    rfl
  case interval =>
    rw [Settles, exec, execIntervalTimerRunOut, whenRunning_running hp, State.intervalTimeout_running hk active timer]
    rfl
  case lease =>
    rw [Settles, exec, execLeaseTimerRunOut, whenRunning_running hp, State.leaseTimeout_running lease]
    rfl
  case tick =>
    rw [exec, execMillisecondCountTick, State.tick_counts counts]

end Sys2Proof.Machine
end

section
/-! SUPPORT. What follows at once: while L is not UP, and while a transmitter is busy; O3 and O33 (R96, R109, R110, R112). -/

namespace Sys2Proof.Machine

variable {s u : State} {p : FPort} {q : Port} {x : Queued} {rest : List Queued}

/-! ### A command of the running part -/

/-- A happening of the running part does what it does, and then follows what the part does at once. -/
theorem settles_whenRunning {c : Instr} {f : State → State} {v : State} (hp : v.phase = .running)
    (hc : exec c s = .next (whenRunning f v)) (hf : f v = u) : Settles c s u := by
  rw [Settles, hc, whenRunning_running hp, hf]

/-! ### The transmitters (R96) -/

/-- A busy transmitter takes no frame. -/
theorem State.startTx_busy (busy : (s.port q).tx = some x) : s.startTx q = s := by
  rw [State.startTx, busy]
  rfl

/-- An idle transmitter on an UP link takes the head of its source (R96, R112). -/
theorem State.startTx_idle {k : QueueId} (idle : (s.port q).tx = none) (up : s.linkUp q = true)
    (source : s.txSource q = some k) (head : s.queue k = x :: rest) :
    s.startTx q = (s.setQueue k rest).setPort q { s.port q with tx := some x } := by
  simp only [State.startTx, idle, up, source, State.sendHead, head, Option.isNone_none, Bool.and_self, if_true,
    State.setTx_eq, State.port_setQueue]

/-- A transmitter that starts takes no cell and no serial. -/
theorem State.startTx_pool (v : State) (q : Port) : (v.startTx q).serial = v.serial ∧ (v.startTx q).free = v.free := by
  unfold State.startTx State.sendHead
  split
  · split
    · split
      · exact ⟨rfl, rfl⟩
      · exact ⟨v.setQueue_serial _ _, v.setQueue_free _ _⟩
    · exact ⟨rfl, rfl⟩
  · exact ⟨rfl, rfl⟩

/-- A field transmitter is served from its command queue, and leaves lane and class queues alone (R110). -/
theorem State.startTx_field (v : State) (hq : q ≠ .l) :
    (v.startTx q).lane = v.lane ∧ (v.startTx q).classes = v.classes := by
  unfold State.startTx
  split
  · split
    · next k source =>
      obtain ⟨fp, rfl, -⟩ := State.txSource_field hq source
      unfold State.sendHead
      split <;> exact ⟨rfl, rfl⟩
    · exact ⟨rfl, rfl⟩
  · exact ⟨rfl, rfl⟩

/-- The first queue of a list that holds a frame is the one behind which all are empty. -/
theorem State.firstQueue_append {k : QueueId} {before after : List QueueId} (empty : ∀ r ∈ before, s.queue r = [])
    (head : s.queue k = x :: rest) : s.firstQueue (before ++ k :: after) = some k := by
  induction before with
  | nil => simp [State.firstQueue, head]
  | cons r before ih =>
    obtain ⟨first, others⟩ := List.forall_mem_cons.1 empty
    simpa [State.firstQueue, first] using ih others

/-- The lane goes before every class (R112). -/
theorem State.txSource_lane (head : s.lane = x :: rest) : s.txSource .l = some .lane :=
  State.firstQueue_append (before := []) (fun _ h => absurd h List.not_mem_nil) head

/-- With an empty lane the lowest-numbered class queue that lists a frame is served (R112). -/
theorem State.txSource_class {c : Fin 4} (lane : s.lane = []) (lower : ∀ d, d < c → s.queue (.cls d) = [])
    (head : s.queue (.cls c) = x :: rest) : s.txSource .l = some (.cls c) := by
  have lane : s.queue .lane = [] := lane
  match c with
  | 0 => exact State.firstQueue_append (before := [.lane]) (by simpa using lane) head
  | 1 => exact State.firstQueue_append (before := [.lane, .cls 0]) (by simp [lane, lower 0]) head
  | 2 => exact State.firstQueue_append (before := [.lane, .cls 0, .cls 1]) (by simp [lane, lower 0, lower 1]) head
  | 3 =>
    exact State.firstQueue_append (before := [.lane, .cls 0, .cls 1, .cls 2])
      (by simp [lane, lower 0, lower 1, lower 2]) head

theorem State.txSource_command (head : s.command.get p = x :: rest) : s.txSource (portOf p) = some (.command p) := by
  have first : s.firstQueue [.command p] = some (.command p) :=
    State.firstQueue_append (before := []) (fun _ h => absurd h List.not_mem_nil) head
  cases p <;> exact first

/-! ### The notice feed (R109) -/

theorem State.feedNotices_down (down : s.linkUp .l = false) : s.feedNotices = s := by
  unfold State.feedNotices
  cases s.notices with
  | nil => rfl
  | cons n more => simp [offerNotices, down]

theorem State.feedNotices_quiet (quiet : s.notices = []) : s.feedNotices = s := by
  rw [State.feedNotices, quiet, offerNotices]

/-! ### What follows at once -/

/-- While L is not UP, what follows at once takes no cell and no serial (R109, R162). -/
theorem State.settle_pool (down : s.linkUp .l = false) : s.settle.serial = s.serial ∧ s.settle.free = s.free := by
  refine (State.settle_induct (P := fun v => v.linkUp .l = false ∧ v.serial = s.serial ∧ v.free = s.free)
    ⟨down, rfl, rfl⟩ (fun v hv => ?_) fun v q hv => ?_).2
  · rw [State.feedNotices_down hv.1]
    exact hv
  · obtain ⟨vdown, serial, free⟩ := hv
    obtain ⟨serial', free'⟩ := v.startTx_pool q
    refine ⟨?_, serial'.trans serial, free'.trans free⟩
    rw [State.linkUp, (v.startTx_egress q).link]
    exact vdown

/-- Settles O3. -/
theorem settleTouchesEgressOnly : Obligations.SettleTouchesEgressOnly := by
  intro s
  refine ⟨s.settle_egress, State.settle_stopped, fun down => ?_⟩
  obtain ⟨lane, classes, notices, -⟩ := State.settle_lineDown down
  obtain ⟨serial, free⟩ := State.settle_pool down
  exact ⟨lane, classes, notices, serial, State.settle_lost (.inr down), free⟩

/-- While L sends and no notice waits, what follows at once leaves that transmission, the lane and the class queues alone. -/
theorem State.settle_lineBusy (quiet : s.notices = []) (busy : (s.port .l).tx = some x) :
    (s.settle.port .l).tx = some x ∧ s.settle.lane = s.lane ∧ s.settle.classes = s.classes := by
  refine (State.settle_induct (P := fun v => v.notices = [] ∧ (v.port .l).tx = some x ∧ v.lane = s.lane ∧
    v.classes = s.classes) ⟨quiet, busy, rfl, rfl⟩ (fun v hv => ?_) fun v q hv => ?_).2
  · rw [State.feedNotices_quiet hv.1]
    exact hv
  · obtain ⟨vquiet, vbusy, vlane, vclasses⟩ := hv
    by_cases hq : q = .l
    · subst hq
      rw [State.startTx_busy vbusy]
      exact ⟨vquiet, vbusy, vlane, vclasses⟩
    · obtain ⟨lane, classes⟩ := v.startTx_field hq
      refine ⟨(v.startTx_lost q).1.trans vquiet, ?_, lane.trans vlane, classes.trans vclasses⟩
      rw [State.startTx_port_other (Ne.symm hq)]
      exact vbusy

/-- While a field port sends, what follows at once leaves that transmission and its command queue alone (R110). -/
theorem State.settle_fieldBusy (busy : (s.port (portOf p)).tx = some x) :
    (s.settle.port (portOf p)).tx = some x ∧ s.settle.command.get p = s.command.get p := by
  refine State.settle_induct (P := fun v => (v.port (portOf p)).tx = some x ∧ v.command.get p = s.command.get p)
    ⟨busy, rfl⟩ (fun v hv => ?_) fun v q hv => ?_
  · obtain ⟨sr, lost, n, ln, fr, e, _⟩ := v.feedNotices_spec
    rw [e]
    exact hv
  · obtain ⟨vbusy, command⟩ := hv
    by_cases hq : q = portOf p
    · subst hq
      rw [State.startTx_busy vbusy]
      exact ⟨vbusy, command⟩
    · refine ⟨?_, (State.startTx_command_other hq).trans command⟩
      rw [State.startTx_port_other (Ne.symm hq)]
      exact vbusy

/-! ### TRANSMISSION_START -/

/-- TRANSMISSION_START on an idle transmitter of an UP link: the head of its source is in transmission, and then follows what
the part does at once (R96, R112). -/
theorem transmissionStart_settles {k : QueueId} (hp : s.phase = .running) (up : s.linkUp q = true)
    (idle : (s.port q).tx = none) (source : s.txSource q = some k) (head : s.queue k = x :: rest) :
    Settles (.transmissionStart q) s ((s.setQueue k rest).setPort q { s.port q with tx := some x }) :=
  settles_whenRunning hp rfl (State.startTx_idle idle up source head)

/-- Settles O33: the queue that is served, then what is left alone while that frame is sent. -/
theorem arbiterPriority : Obligations.ArbiterPriority := by
  intro s x rest hp
  refine ⟨fun up idle quiet => ⟨fun head => ?lane, fun c lane lower head => ?cls⟩, fun p up idle head => ?field⟩
  case lane =>
    obtain ⟨tx, lane, classes⟩ := State.settle_lineBusy (x := x)
      (s := (s.setQueue .lane rest).setPort .l { s.port .l with tx := some x }) quiet rfl
    exact ⟨_, transmissionStart_settles hp up idle (State.txSource_lane head) head, tx, lane, classes⟩
  case cls =>
    obtain ⟨tx, lane', classes⟩ := State.settle_lineBusy (x := x)
      (s := (s.setQueue (.cls c) rest).setPort .l { s.port .l with tx := some x }) quiet rfl
    have queue : ∀ d, State.queue (State.settle _) (.cls d) = (s.setQueue (.cls c) rest).queue (.cls d) := fun d =>
      congrArg (fun v : Vector (List Queued) 4 => v[d]) classes
    refine ⟨_, transmissionStart_settles hp up idle (State.txSource_class lane lower head) head, tx, lane'.trans lane,
      (queue c).trans (s.queue_setQueue_self _ _), fun d hd => (queue d).trans (s.queue_setQueue_other _ ?_)⟩
    simpa using hd
  case field =>
    obtain ⟨tx, command⟩ := State.settle_fieldBusy (p := p) (x := x)
      (s := (s.setQueue (.command p) rest).setPort (portOf p) { s.port (portOf p) with tx := some x })
      (by rw [State.port_setPort_self])
    exact ⟨_, transmissionStart_settles hp up idle (State.txSource_command head) head, tx,
      command.trans (s.queue_setQueue_self (.command p) rest)⟩

end Sys2Proof.Machine
end

section
/-! SUPPORT. Alignment of a port, and the symbols outside a reception: O8 and O9 (R81, R87, R88, R99, R100, Table 6-1). -/

namespace Sys2Proof.Machine

variable {s : State} {p : Port}

/-! ### Alignment (R87, R88) -/

theorem State.setPort_setPort (s : State) (p : Port) (x y : PortState) : (s.setPort p x).setPort p y = s.setPort p y := by
  simp only [State.setPort, PerPort.set_set]

/-- A DOWN port of the running part is ALIGNING with run 0 when a signal is present, else it stays DOWN (R87). -/
theorem State.detect_setPort {x : PortState} (hp : s.phase = .running) (down : x.link = .down) :
    (s.setPort p x).detect p =
      s.setPort p { x with link := if x.signal = true then .aligning 0 false false else .down } := by
  unfold State.detect
  rw [State.port_setPort_self]
  by_cases signal : x.signal = true
  · rw [if_pos ⟨hp, signal, down⟩, if_pos signal, State.setLink_eq, State.setPort_setPort, State.port_setPort_self]
  · rw [if_neg fun h => signal h.2.1, if_neg signal, ← down]

/-- An alignment word that does not complete the alignment extends the run (R88). -/
theorem State.alignmentWord_extends {run : Nat} {r a ack : Bool} (link : (s.port p).link = .aligning run r a)
    (incomplete : ((r || decide (3 ≤ run)) && (a || ack)) = false) :
    s.alignmentWord p ack =
      s.setPort p { s.port p with link := .aligning (run + 1) (r || decide (3 ≤ run)) (a || ack) } := by
  have four : decide (4 ≤ run + 1) = decide (3 ≤ run) := decide_eq_decide.2 (by omega)
  simp only [State.alignmentWord, link, four, incomplete]
  rfl

/-- An alignment word that completes the alignment brings the link UP (R88). -/
theorem State.alignmentWord_completes {run : Nat} {r a ack : Bool} (link : (s.port p).link = .aligning run r a)
    (complete : ((r || decide (3 ≤ run)) && (a || ack)) = true) : s.alignmentWord p ack = s.linkComesUp p := by
  have four : decide (4 ≤ run + 1) = decide (3 ≤ run) := decide_eq_decide.2 (by omega)
  simp only [State.alignmentWord, link, four, complete, if_true]

/-- A field link that comes UP makes the paths of ACTIVE slots FRESH and raises PORT_UP (R81, R99). -/
theorem State.linkComesUp_field (s : State) (q : FPort) : s.linkComesUp (portOf q) =
    ((s.setPort (portOf q) { s.port (portOf q) with link := .up [] }).mapAllStreams (Stream.pathOnLinkUp q)).raiseNotice
      (.portUp q s.count) := by
  cases q <;> rfl

/-- Settles O8: the signal comes, the timer runs out, the signal goes, and the three outcomes of an alignment word. -/
theorem alignment : Obligations.Alignment := by
  refine ⟨fun s p hp down => ?detected, fun s p run r a hp link => ⟨?timer, ?lost⟩, fun s p run r a ack hp link => ?word⟩
  case detected =>
    exact settles_whenRunning (v := s.setSignal p true) hp rfl (State.detect_setPort hp down)
  case timer =>
    refine settles_whenRunning hp rfl ?_
    simp only [State.alignmentTimeout, link]
    exact State.detect_setPort hp rfl
  case lost =>
    have silent : ((s.setSignal p false).port p).link = .aligning run r a := by
      rw [State.setSignal_eq, State.port_setPort_self]
      exact link
    refine settles_whenRunning (v := s.setSignal p false) hp rfl ?_
    simp only [State.loseSignal, silent]
    rw [State.setLink_eq, State.setSignal_eq, State.port_setPort_self, State.setPort_setPort]
  case word =>
    intro reached acked
    refine ⟨fun incomplete => settles_whenRunning hp rfl (State.alignmentWord_extends link incomplete),
      fun complete line => ?_, fun q complete field => ?_⟩
    · subst line
      exact settles_whenRunning hp rfl (State.alignmentWord_completes link complete)
    · subst field
      exact settles_whenRunning hp rfl ((State.alignmentWord_completes link complete).trans (s.linkComesUp_field q))

/-! ### Symbols outside a reception (Table 6-1) -/

theorem State.dataByte_none (h : (s.port p).reception = none) (b : Byte) : s.dataByte p b = s := by
  simp only [State.dataByte, h]

theorem State.endMarker_none (h : (s.port p).reception = none) : s.endMarker p = s := by
  simp only [State.endMarker, h]

theorem State.alignmentWord_up (up : s.linkUp p = true) (ack : Bool) : s.alignmentWord p ack = s.abandonMalformed p := by
  obtain ⟨errors, link⟩ := State.linkUp_iff.1 up
  simp only [State.alignmentWord, link]

theorem State.alignmentWord_down (down : (s.port p).link = .down) (ack : Bool) : s.alignmentWord p ack = s := by
  simp only [State.alignmentWord, down]

theorem State.lineError_down (down : (s.port p).link = .down) (sub : Nat) : s.lineError p sub = s := by
  simp only [State.lineError, down]

theorem State.lineError_aligning {run : Nat} {r a : Bool} (link : (s.port p).link = .aligning run r a) (sub : Nat) :
    s.lineError p sub = s.setPort p { s.port p with link := .aligning 0 r a } := by
  simp only [State.lineError, State.breakRun, link, State.setLink_eq]

/-- Settles O9: the symbols by the link state of the port. -/
theorem symbolsBetweenFrames : Obligations.SymbolsBetweenFrames := by
  intro s p b ack sub c hp
  refine ⟨fun symbol run r a link => ?aligning, fun symbol up idle => ?up, fun symbol down => ?down⟩
  case aligning =>
    rcases symbol with rfl | rfl | rfl | rfl <;>
      exact settles_whenRunning hp rfl (State.bySymbol_aligning link)
  case up =>
    rcases symbol with rfl | rfl | rfl | rfl
    · exact settles_whenRunning hp rfl ((State.bySymbol_up up).trans (State.dataByte_none idle b))
    · exact settles_whenRunning hp rfl ((State.bySymbol_up up).trans (State.abandonMalformed_none idle))
    · exact settles_whenRunning hp rfl ((State.bySymbol_up up).trans (State.endMarker_none idle))
    · exact settles_whenRunning hp rfl ((State.alignmentWord_up up ack).trans (State.abandonMalformed_none idle))
  case down =>
    rcases symbol with rfl | rfl | rfl | rfl | rfl | rfl
    · exact settles_whenRunning hp rfl (State.bySymbol_down down)
    · exact settles_whenRunning hp rfl (State.bySymbol_down down)
    · exact settles_whenRunning hp rfl (State.bySymbol_down down)
    · exact settles_whenRunning hp rfl (State.bySymbol_down down)
    · exact settles_whenRunning hp rfl (State.alignmentWord_down down ack)
    · exact settles_whenRunning hp rfl (State.lineError_down down sub)

end Sys2Proof.Machine
end

section
/-! SUPPORT. Receptions: the cells their bytes take, and how they end as MALFORMED: O13 and O14 (R89 to R91, R102). -/

namespace Sys2Proof.Machine

variable {s : State} {p : Port} {r : Reception} {c : CellId} {rest : List CellId}

/-! ### Cells (R90, R102) -/

theorem State.beginReception_granted (e : s.free = c :: rest) (h : p = .l ∨ 5 ≤ s.free.length) :
    s.beginReception p = { s.setPort p { s.port p with reception := some ⟨[], [c]⟩ } with free := rest } := by
  simp only [State.beginReception, State.grantReceiver_some e h]
  rfl

theorem State.beginReception_refused (h : p = .l ∧ s.free = [] ∨ p ≠ .l ∧ s.free.length ≤ 4) :
    s.beginReception p = s.poolEmpty p := by
  simp only [State.beginReception, State.grantReceiver_none h]

/-- A byte takes a cell when it is the first beyond the cells already held (R90). -/
theorem needsCell_iff {n : Nat} : needsCell n = true ↔ n ≠ 0 ∧ n % 64 = 0 := by simp [needsCell]

/-- A data byte that fills no new cell is stored (R90). -/
theorem State.dataByte_stored (reception : (s.port p).reception = some r) (room : r.bytes.length < maxFrame)
    (within : needsCell r.bytes.length = false) (b : Byte) :
    s.dataByte p b = s.setPort p { s.port p with reception := some ⟨r.bytes ++ [b], r.cells⟩ } := by
  simp only [State.dataByte, reception, if_neg (Nat.not_le.2 room), within, storeByte, List.append_nil]
  rfl

/-- A data byte that takes a further cell is stored in it (R90, R102). -/
theorem State.dataByte_granted (reception : (s.port p).reception = some r) (room : r.bytes.length < maxFrame)
    (needs : needsCell r.bytes.length = true) (e : s.free = c :: rest) (h : p = .l ∨ 5 ≤ s.free.length) (b : Byte) :
    s.dataByte p b =
      { s.setPort p { s.port p with reception := some ⟨r.bytes ++ [b], r.cells ++ [c]⟩ } with free := rest } := by
  simp only [State.dataByte, reception, if_neg (Nat.not_le.2 room), needs, if_true,
    State.grantReceiver_some e h]
  rfl

/-- A data byte whose cell is refused ends the reception as POOL_EMPTY (R91, R102). -/
theorem State.dataByte_refused (reception : (s.port p).reception = some r) (room : r.bytes.length < maxFrame)
    (needs : needsCell r.bytes.length = true) (h : p = .l ∧ s.free = [] ∨ p ≠ .l ∧ s.free.length ≤ 4) (b : Byte) :
    s.dataByte p b = ((s.setPort p { s.port p with reception := none }).returnCells r.cells).poolEmpty p := by
  simp only [State.dataByte, reception, if_neg (Nat.not_le.2 room), needs, if_true,
    State.grantReceiver_none h, State.abandonPoolEmpty]
  rfl

/-- Settles O13: the first cell of a reception, then the cells of its bytes, each granted or refused. -/
theorem bytesTakeCells : Obligations.BytesTakeCells := by
  refine ⟨fun s p hp up idle => ?start, fun s p r b receiving room => ?byte⟩
  case start =>
    have starts : s.bySymbol p (fun s => s.startMarker p) = s.beginReception p := by
      rw [State.bySymbol_up up, State.startMarker, State.abandonMalformed_none idle]
    exact ⟨fun c rest e h => settles_whenRunning hp rfl (starts.trans (State.beginReception_granted e h)),
      fun h => settles_whenRunning hp rfl (starts.trans (State.beginReception_refused h))⟩
  case byte =>
    obtain ⟨hp, up, reception⟩ := receiving
    have stores : s.bySymbol p (fun s => s.dataByte p b) = s.dataByte p b := State.bySymbol_up up
    refine ⟨fun within => ?_, fun positive boundary => ?_⟩
    · have no : needsCell r.bytes.length = false := by
        rw [Bool.eq_false_iff, ne_eq, needsCell_iff]
        omega
      exact settles_whenRunning hp rfl (stores.trans (State.dataByte_stored reception room no b))
    · have needs : needsCell r.bytes.length = true := needsCell_iff.2 ⟨positive, boundary⟩
      exact ⟨fun c rest e h => settles_whenRunning hp rfl
          (stores.trans (State.dataByte_granted reception room needs e h b)),
        fun h => settles_whenRunning hp rfl (stores.trans (State.dataByte_refused reception room needs h b))⟩

/-! ### Receptions that end as MALFORMED (R91) -/

/-- The 1065th byte ends the reception (R91). -/
theorem State.dataByte_full (reception : (s.port p).reception = some r) (full : maxFrame ≤ r.bytes.length) (b : Byte) :
    s.dataByte p b = s.abandonMalformed p := by
  simp only [State.dataByte, reception, if_pos full]

/-- An end marker after fewer than 26 bytes ends the reception (R91). -/
theorem State.endMarker_short (reception : (s.port p).reception = some r) (short : r.bytes.length < minFrame) :
    s.endMarker p = s.abandonMalformed p := by
  simp only [State.endMarker, reception, if_pos short]

/-- The cells of a reception that ends as MALFORMED return to the free list (R91, R103). -/
theorem State.abandonMalformed_free (reception : (s.port p).reception = some r) :
    (s.abandonMalformed p).free = s.free ++ r.cells := by
  rw [State.abandonMalformed_some reception]
  obtain ⟨q, o, n, l, g, e⟩ := State.raiseFault_spec
    (((s.setPort p { s.port p with reception := none }).returnCells r.cells).bumpPort p .malformed)
    { kind := .malformed, port := some p }
  rw [e]
  rfl

/-- A line-code error in UP that is not the sixteenth kept ends a reception and is kept (R89, R91). -/
theorem State.lineError_kept {errors : List Nat} (link : (s.port p).link = .up errors) {sub : Nat}
    (few : (keepErrors errors (s.errorTime sub)).length < errorLimit) :
    s.lineError p sub = (s.abandonMalformed p).setLink p (.up (keepErrors errors (s.errorTime sub))) := by
  simp only [State.lineError, link, if_neg (Nat.not_le.2 few)]

/-- Settles O14: the symbols that only end the reception, the line-code error kept besides, and the start marker. -/
theorem malformedReception : Obligations.MalformedReception := by
  intro s p r c receiving
  obtain ⟨hp, up, reception⟩ := receiving
  rw [← State.abandonMalformed_some reception]
  have starts : s.bySymbol p (fun s => s.startMarker p) = (s.abandonMalformed p).beginReception p :=
    State.bySymbol_up up
  refine ⟨fun symbol => ?ends, fun sub errors link few => ?error, fun x rest e h => ?granted, fun h => ?refused⟩
  case ends =>
    rcases symbol with rfl | ⟨ack, rfl⟩ | ⟨⟨b, rfl⟩, full⟩ | ⟨rfl, short⟩
    · exact settles_whenRunning hp rfl (State.bySymbol_up up)
    · exact settles_whenRunning hp rfl (State.alignmentWord_up up ack)
    · exact settles_whenRunning hp rfl ((State.bySymbol_up up).trans (State.dataByte_full reception full.ge b))
    · exact settles_whenRunning hp rfl ((State.bySymbol_up up).trans (State.endMarker_short reception short))
  case error => exact settles_whenRunning hp rfl (State.lineError_kept link few)
  case granted =>
    rw [← State.abandonMalformed_free reception] at e h
    exact settles_whenRunning hp rfl (starts.trans (State.beginReception_granted e h))
  case refused =>
    rw [← State.abandonMalformed_free reception] at h
    exact settles_whenRunning hp rfl (starts.trans (State.beginReception_refused h))

end Sys2Proof.Machine
end

section
/-! SUPPORT. The loss of the line's link: what it drops, counts and gives back, and O12 (R97, R98, R100, R103, R111, R114, R135,
R163). -/

namespace Sys2Proof.Machine

variable {s t u : State}

/-! ### Frames that L lets go (R103, R111, R114, R163) -/

/-- Frames that no other port holds have been let go and reported not sent: all their cells return (R103, R114, R163). -/
structure LineLetsGo (l : List Queued) (s t : State) : Prop where
  free : t.free = s.free ++ l.flatMap (fun x => x.frame.cells)
  lost : t.noticesLost.toNat = min 65535 (s.noticesLost.toNat + (l.map (fun x => (keptLost x.origin).toNat)).sum)

theorem LineLetsGo.nil (free : t.free = s.free) (lost : t.noticesLost = s.noticesLost) : LineLetsGo [] s t where
  free := free.trans (List.append_nil _).symm
  lost := by
    have := s.noticesLost.isLt
    rw [lost, List.map_nil, List.sum_nil]
    omega

theorem LineLetsGo.single {x : Queued} (free : t.free = s.free ++ x.frame.cells)
    (lost : t.noticesLost = satAdd 16 s.noticesLost (keptLost x.origin)) : LineLetsGo [x] s t where
  free := by rw [free, List.flatMap_singleton]
  lost := by
    rw [lost, satAdd16_toNat]
    simp

theorem LineLetsGo.append {l l' : List Queued} (a : LineLetsGo l s t) (b : LineLetsGo l' t u) :
    LineLetsGo (l ++ l') s u where
  free := by rw [b.free, a.free, List.append_assoc, List.flatMap_append]
  lost := by
    rw [b.lost, a.lost, List.map_append, List.sum_append]
    omega

/-- A transmission cut on L lets its frame go (R97). -/
theorem cutTx_lineLetsGo (s : State) : LineLetsGo (s.port .l).tx.toList s (s.cutTx .l) := by
  unfold State.cutTx
  cases (s.port .l).tx with
  | none => exact .nil rfl rfl
  | some x => exact .single rfl rfl

/-- A queue of frames for L: the lane or a class queue (Table 7-3). -/
def QueueId.isLine : QueueId → Bool
  | .lane => true
  | .cls _ => true
  | .command _ => false

theorem flushOne_lineLetsGo {q : QueueId} (line : q.isLine = true) (s : State) (x : Queued) :
    LineLetsGo [x] s (State.flushOne q s x) := by
  cases q with
  | lane => exact .single rfl rfl
  | cls c => exact .single rfl rfl
  | command p => exact absurd line Bool.false_ne_true

/-- A flush of the lane or of a class queue lets its frames go (R111). -/
theorem flush_lineLetsGo {q : QueueId} (line : q.isLine = true) (s : State) :
    LineLetsGo (s.queue q) s (s.flush q) := by
  have go : ∀ (l : List Queued) (v : State), LineLetsGo l v (l.foldl (State.flushOne q) v) := by
    intro l
    induction l with
    | nil => exact fun v => .nil rfl rfl
    | cons x l ih => exact fun v => (flushOne_lineLetsGo line v x).append (ih _)
  exact LineLetsGo.append (l := []) (t := s.setQueue q []) (.nil (s.setQueue_free q []) (s.setQueue_noticesLost q []))
    (go _ _)

/-! ### Flushing several queues in order (R100, R111) -/

/-- The queues flushed one after the other. -/
def State.flushEach (s : State) (l : List QueueId) : State := l.foldl State.flush s

theorem flushEach_lineLetsGo {l : List QueueId} (once : l.Nodup) (line : ∀ q ∈ l, q.isLine = true) (s : State) :
    LineLetsGo (l.flatMap s.queue) s (s.flushEach l) := by
  induction l generalizing s with
  | nil => exact .nil rfl rfl
  | cons q l ih =>
    obtain ⟨new, once⟩ := List.nodup_cons.1 once
    obtain ⟨first, others⟩ := List.forall_mem_cons.1 line
    have kept : l.flatMap (s.flush q).queue = l.flatMap s.queue :=
      List.flatMap_congr fun r hr => (s.flush_flushes q).1.others r fun e => new (e ▸ hr)
    have rest := ih once others (s.flush q)
    rw [kept] at rest
    exact (flush_lineLetsGo first s).append rest

/-- A global counter that is FLUSHED of none of the queues does not count (R111). -/
theorem State.flushEach_counter {c : GlobalCtr} {l : List QueueId} (hc : ∀ q ∈ l, c ≠ .flushed q) (s : State) :
    (s.flushEach l).globalCounter c = s.globalCounter c := by
  induction l generalizing s with
  | nil => rfl
  | cons q l ih =>
    obtain ⟨first, others⟩ := List.forall_mem_cons.1 hc
    exact (ih others _).trans ((s.flush_globalCounter q c).trans (if_neg first))

/-- FLUSHED of each of the queues counts once for each of its frames (R111). -/
theorem State.flushEach_flushed {l : List QueueId} (once : l.Nodup) {q : QueueId} (hq : q ∈ l) (s : State) :
    (s.flushEach l).globalCounter (.flushed q) =
      (satInc 32)^[(s.queue q).length] (s.globalCounter (.flushed q)) := by
  induction l generalizing s with
  | nil => exact absurd hq List.not_mem_nil
  | cons r l ih =>
    obtain ⟨new, once⟩ := List.nodup_cons.1 once
    rcases List.mem_cons.1 hq with rfl | later
    · have away : ∀ r ∈ l, GlobalCtr.flushed q ≠ .flushed r := fun r hr e => new (by rwa [GlobalCtr.flushed.inj e])
      exact (State.flushEach_counter away _).trans ((s.flush_globalCounter q _).trans (if_pos rfl))
    · have apart : q ≠ r := fun e => new (e ▸ later)
      have counter := (s.flush_globalCounter r (.flushed q)).trans (if_neg fun e => apart (GlobalCtr.flushed.inj e))
      exact (ih once later (s.flush r)).trans (by rw [counter, (s.flush_flushes r).1.others q apart])

theorem State.flushEach_port (l : List QueueId) (s : State) (p : Port) : (s.flushEach l).port p = s.port p := by
  induction l generalizing s with
  | nil => rfl
  | cons q l ih => exact (ih _).trans (congrArg (·.get p) (s.flush_flushes q).1.ports)

/-! ### What a loss of the line's link drops (R100) -/

/-- The queues served on L, by priority (R112). -/
def lineQueues : List QueueId := [.lane, .cls 0, .cls 1, .cls 2, .cls 3]

theorem lineQueues_nodup : lineQueues.Nodup := by decide

theorem lineQueues_isLine : ∀ q ∈ lineQueues, q.isLine = true := by decide

theorem cls_mem_lineQueues (c : Fin 4) : QueueId.cls c ∈ lineQueues := by revert c; decide

/-- The frames for L: in transmission, in the lane and in the class queues. -/
def State.lineFrames (s : State) : List Queued := (s.port .l).tx.toList ++ lineQueues.flatMap s.queue

theorem State.lineFrames_eq (s : State) : s.lineFrames =
    (s.port .l).tx.toList ++ s.lane ++ allClasses.flatMap (fun c => s.queue (.cls c)) := by
  rw [State.lineFrames, List.append_assoc]
  rfl

/-- What a loss of link counts on its port: the reception as ABORTED, the transmission as TX_ABORTED. -/
def lossCounters (x : PortState) : Vector Word32 7 :=
  (fun v => if x.tx.isSome = true then bumpAt v (portCtrIdx .txAborted) else v)
    (if x.reception.isSome = true then bumpAt x.counters (portCtrIdx .aborted) else x.counters)

theorem lossCounters_get (x : PortState) (c : PortCtr) : (lossCounters x)[portCtrIdx c] =
    if c = .aborted ∧ x.reception.isSome = true ∨ c = .txAborted ∧ x.tx.isSome = true
    then satInc 32 x.counters[portCtrIdx c] else x.counters[portCtrIdx c] := by
  simp only [lossCounters, bumpAt_portCtr]
  cases c <;> simp

/-- L DOWN, its reception abandoned and its transmission cut: the first steps of its loss of link (R100). -/
def State.lineCut (s : State) : State := ((s.setLink .l .down).abandon .l .aborted).cutTx .l

theorem State.dropLine_eq (s : State) : s.dropLine = s.lineCut.flushEach lineQueues := by
  simp only [State.dropLine, State.lineCut, State.flushEach, lineQueues, List.foldl_cons, List.foldl_nil]

/-- These steps write L's port, the pool and the lost count alone: both are counted (R91, R97). -/
theorem State.lineCut_frame (s : State) : ∃ e fr n, s.lineCut =
    { s.setPort .l { s.port .l with
        link := .down, reception := none, tx := none, lastEnd := e
        counters := lossCounters (s.port .l) } with free := fr, noticesLost := n } := by
  unfold State.lineCut
  rw [State.abandon_eq]
  obtain ⟨fr, e, n, cut⟩ := State.cutTx_frame (((s.setLink .l .down).setPort .l _).returnCells _) .l
  exact ⟨e, fr, n, cut⟩

theorem State.lineCut_letsGo (s : State) :
    LineLetsGo (s.port .l).tx.toList (s.returnCells (s.receptionCells .l)) s.lineCut := by
  unfold State.lineCut
  rw [State.abandon_eq]
  obtain ⟨free, lost⟩ := cutTx_lineLetsGo (((s.setLink .l .down).setPort .l _).returnCells _)
  exact ⟨free, lost⟩

theorem State.dropLine_letsGo (s : State) :
    LineLetsGo s.lineFrames (s.returnCells (s.receptionCells .l)) s.dropLine := by
  have queues : s.lineCut.queue = s.queue := by
    obtain ⟨e, fr, n, cut⟩ := s.lineCut_frame
    rw [cut]
    funext q
    cases q <;> rfl
  have flushed := flushEach_lineLetsGo lineQueues_nodup lineQueues_isLine s.lineCut
  rw [queues, ← State.dropLine_eq] at flushed
  exact s.lineCut_letsGo.append flushed

theorem State.dropLine_portCounter (s : State) (c : PortCtr) : s.dropLine.portCounter .l c =
    if c = .aborted ∧ (s.port .l).reception.isSome = true ∨ c = .txAborted ∧ (s.port .l).tx.isSome = true
    then satInc 32 (s.portCounter .l c) else s.portCounter .l c := by
  obtain ⟨e, fr, n, cut⟩ := s.lineCut_frame
  rw [State.portCounter, State.dropLine_eq, State.flushEach_port, cut]
  show ((s.setPort .l _).port .l).counters[portCtrIdx c] = _
  rw [State.port_setPort_self]
  exact lossCounters_get (s.port .l) c

theorem State.dropLine_flushed (s : State) {q : QueueId} (hq : q ∈ lineQueues) : s.dropLine.globalCounter (.flushed q) =
    (satInc 32)^[(s.queue q).length] (s.globalCounter (.flushed q)) := by
  obtain ⟨e, fr, n, cut⟩ := s.lineCut_frame
  rw [State.dropLine_eq, State.flushEach_flushed lineQueues_nodup hq, cut]
  cases q <;> rfl

theorem State.dropLine_globalCounter (s : State) {c : GlobalCtr} (hc : ∀ q, c ≠ .flushed q) :
    s.dropLine.globalCounter c = s.globalCounter c := by
  obtain ⟨e, fr, n, cut⟩ := s.lineCut_frame
  rw [State.dropLine_eq, State.flushEach_counter fun q _ => hc q, cut]
  rfl

/-! ### The loss of signal on L -/

/-- What the part is after a reset depends on the banks alone (R168, R169). -/
theorem FreshPart.of_banks (h : FreshPart u t) (banks : u.banks = s.banks) : FreshPart s t := by
  obtain ⟨phase, count, bank, image, empty, loaded, generation, repair, links, portCounters, free, queues, agent, staging,
    op, faults, stamps, overflow, globalCounters, notices⟩ := h
  rw [banks] at bank image empty loaded faults
  exact ⟨phase, count, bank, image, empty, loaded, generation, repair, links, portCounters, free, queues, agent, staging,
    op, faults, stamps, overflow, globalCounters, notices⟩

/-- A reset that is taken has nothing that follows at once: the load begins (R168). -/
theorem State.takeReset_settle (s : State) : s.takeReset.settle = s.takeReset :=
  State.settle_stopped (by rw [State.takeReset_phase]; decide)

theorem State.lineLinkLoss_drops (noReset : (s.agent.fullPending && s.resetResponseOnL) = false) :
    s.lineLinkLoss = s.dropLine.detect .l := by
  rw [State.lineLinkLoss, noReset, if_neg Bool.false_ne_true]

theorem State.lineLinkLoss_resets (reset : (s.agent.fullPending && s.resetResponseOnL) = true) :
    s.lineLinkLoss = s.dropLine.takeReset := by
  rw [State.lineLinkLoss, reset, if_pos rfl]

theorem State.loseSignal_line {errors : List Nat} (up : (s.port .l).link = .up errors) :
    s.loseSignal .l = s.lineLinkLoss := by
  simp only [State.loseSignal, up, State.linkLoss]

/-- A loss of signal on an UP line drops what L has, without a pending reset whose response is lost: no signal is there to be
detected again (R87, R89, R100). -/
theorem signalLost_drops {errors : List Nat} (hp : s.phase = .running) (up : (s.port .l).link = .up errors)
    (noReset : (s.agent.fullPending && s.resetResponseOnL) = false) :
    Settles (.signalLost .l) s (s.setSignal .l false).dropLine := by
  obtain ⟨-, -, -, -, signal, -⟩ := (s.setSignal .l false).dropLine_spec
  refine settles_whenRunning (v := s.setSignal .l false) hp rfl ?_
  rw [State.loseSignal_line (s := s.setSignal .l false) up, State.lineLinkLoss_drops (s := s.setSignal .l false) noReset]
  exact State.detect_silent signal

/-- With one pending, that reset is taken (R100, R135). -/
theorem signalLost_resets {errors : List Nat} (hp : s.phase = .running) (up : (s.port .l).link = .up errors)
    (reset : (s.agent.fullPending && s.resetResponseOnL) = true) :
    Settles (.signalLost .l) s (s.setSignal .l false).dropLine.takeReset := by
  refine settles_whenRunning (v := s.setSignal .l false) hp rfl ?_
  rw [State.loseSignal_line (s := s.setSignal .l false) up, State.lineLinkLoss_resets (s := s.setSignal .l false) reset]

/-- Settles O12: the reset of a lost response, else what L drops and what follows at once leaves alone. -/
theorem lineLinkLoss : Obligations.LineLinkLoss := by
  intro s errors hp up
  refine ⟨fun reset => ?reset, fun noReset => ?drop⟩
  case reset =>
    have banks : (s.setSignal .l false).dropLine.banks = s.banks := (State.dropLine_step _).control.banks
    refine ⟨_, signalLost_resets hp up reset, ?_⟩
    rw [State.takeReset_settle]
    exact (State.takeReset_fresh _).of_banks banks
  case drop =>
    intro frames
    refine ⟨_, signalLost_drops hp up noReset, ?_⟩
    obtain ⟨link, reception, tx, lane, -, classes, slots, repair, notices, faults, control⟩ :=
      (s.setSignal .l false).dropLine_spec
    obtain ⟨free, lost⟩ := (s.setSignal .l false).dropLine_letsGo
    have portCounter := (s.setSignal .l false).dropLine_portCounter
    have counter := fun c hc => (s.setSignal .l false).dropLine_globalCounter (c := c) hc
    have flushed := fun q hq => (s.setSignal .l false).dropLine_flushed (q := q) hq
    rw [State.lineFrames_eq] at free lost
    have down : (s.setSignal .l false).dropLine.linkUp .l = false := congrArg Link.isUp link
    have egress := (s.setSignal .l false).dropLine.settle_egress
    have after := control.trans (State.settle_step _).control
    obtain ⟨settledLane, settledClasses, settledNotices, port⟩ := State.settle_lineDown down
    obtain ⟨slots', -, -, repair', -, -, -, faults', -, counters, -⟩ := egress.same
    have settledCounter : ∀ c, State.globalCounter (State.settle _) c = (s.setSignal .l false).dropLine.globalCounter c :=
      fun c => congrArg (fun v : Vector Word32 21 => v[globalCtrIdx c]) counters
    exact ⟨by rw [port, link], by rw [port, reception], by rw [port, tx], settledLane.trans lane,
      fun c => (congrArg (fun v : Vector (List Queued) 4 => v[c]) settledClasses).trans (classes c), slots'.trans slots,
      repair'.trans repair, after.agent, settledNotices.trans notices, faults'.trans faults, after.staging, after.op,
      after.banks, after.globals, after.generation, fun c => (egress.portCounter .l c).trans (portCounter c),
      (settledCounter _).trans (flushed _ (List.mem_cons_self ..)),
      fun c => (settledCounter _).trans (flushed _ (cls_mem_lineQueues c)),
      fun c hc => (settledCounter c).trans (counter c hc), (State.settle_pool down).2.trans free,
      (congrArg BitVec.toNat (State.settle_lost (.inr down))).trans lost⟩

end Sys2Proof.Machine
end

section
/-! SUPPORT. Line-code errors, and the link they take down: O10 (R88, R89, R91). -/

namespace Sys2Proof.Machine

variable {s : State} {p : Port}

/-! ### A loss of link on any port (§6.6) -/

/-- A port with its link not UP, no reception, and the counters of a loss of link of `x`. -/
structure LinkLost (x y : PortState) : Prop where
  down : y.link.isUp = false
  reception : y.reception = none
  counters : y.counters = lossCounters x

/-- A port that is DOWN is not UP after a detection, and nothing else of it changes (R87). -/
theorem LinkLost.detect {x : PortState} (h : LinkLost x (s.port p)) : LinkLost x ((s.detect p).port p) := by
  rw [State.detect_port]
  split
  · exact ⟨rfl, h.reception, h.counters⟩
  · exact h

theorem LinkLost.settle {x : PortState} (h : LinkLost x (s.port p)) : LinkLost x (s.settle.port p) := by
  rw [s.settle_egress.2 p]
  exact ⟨h.down, h.reception, h.counters⟩

theorem State.fieldLinkLoss_lost (s : State) (q : FPort) :
    LinkLost (s.port (portOf q)) ((s.fieldLinkLoss q).port (portOf q)) := by
  obtain ⟨u, e, link, reception, -, -, -, counters, -⟩ := s.fieldLinkLoss_spec q
  rw [e]
  exact LinkLost.detect ⟨congrArg Link.isUp link, reception, counters⟩

theorem State.dropLine_lost (s : State) : LinkLost (s.port .l) (s.dropLine.port .l) := by
  obtain ⟨e, fr, n, cut⟩ := s.lineCut_frame
  rw [State.dropLine_eq, State.flushEach_port, cut]
  exact ⟨rfl, rfl, rfl⟩

/-- Unless it brings a pending FULL reset, a loss of link leaves the port without link and reception, both ended ones counted
(R91, R97, R98, R100). -/
theorem State.linkLoss_lost (h : p ≠ .l ∨ (s.agent.fullPending && s.resetResponseOnL) = false) :
    LinkLost (s.port p) ((s.linkLoss p).port p) := by
  cases p with
  | f0 => exact s.fieldLinkLoss_lost .f0
  | f1 => exact s.fieldLinkLoss_lost .f1
  | l =>
    have noReset := h.resolve_left fun apart => apart rfl
    show LinkLost _ (s.lineLinkLoss.port .l)
    rw [State.lineLinkLoss_drops noReset]
    exact s.dropLine_lost.detect

/-- A loss of link leaves the port without link, also where it brings a FULL reset (R98, R100, R135). -/
theorem State.linkLoss_settle_down (s : State) (p : Port) : (s.linkLoss p).settle.linkUp p = false := by
  by_cases h : p ≠ .l ∨ (s.agent.fullPending && s.resetResponseOnL) = false
  · exact (State.linkLoss_lost h).settle.down
  · obtain ⟨line, reset⟩ := not_or.1 h
    obtain rfl : p = .l := not_not.1 line
    have resets : s.linkLoss .l = s.dropLine.takeReset := State.lineLinkLoss_resets (Bool.not_eq_false _ ▸ reset)
    rw [resets, State.takeReset_settle]
    exact congrArg Link.isUp (s.dropLine.takeReset_fresh.links .l).1

/-! ### The sixteenth error within a reception (R91; log 13) -/

/-- A reception that ends as MALFORMED writes its port and the pool, and what its fault writes (R91). -/
theorem State.abandonMalformed_frame (s : State) (p : Port) : ∃ fr q o n l g, s.abandonMalformed p =
    { s.setPort p { s.port p with
        reception := none
        counters := if (s.port p).reception.isSome = true then bumpAt (s.port p).counters (portCtrIdx .malformed)
          else (s.port p).counters } with
      free := fr, faults := q, overflow := o, notices := n, noticesLost := l, globalCtrs := g } := by
  cases reception : (s.port p).reception with
  | none =>
    refine ⟨s.free, s.faults, s.overflow, s.notices, s.noticesLost, s.globalCtrs, ?_⟩
    have same : s.port p = { s.port p with reception := none, counters := (s.port p).counters } := by rw [← reception]
    rw [State.abandonMalformed_none reception]
    exact (State.setPort_same same).symm
  | some r =>
    rw [State.abandonMalformed_some reception]
    obtain ⟨q, o, n, l, g, e⟩ := State.raiseFault_spec
      (((s.setPort p { s.port p with reception := none }).returnCells r.cells).bumpPort p .malformed)
      { kind := .malformed, port := some p }
    refine ⟨s.free ++ r.cells, q, o, n, l, g, e.trans ?_⟩
    rw [State.bumpPort_eq, State.port_returnCells, State.port_setPort_self]
    simp only [State.setPort, State.returnCells, PerPort.set_set]
    rfl

/-- The state in which the sixteenth error's loss of link is taken: the reception ended, the errors kept (R89, R91). -/
def State.errorKept (s : State) (p : Port) (kept : List Nat) : State := (s.abandonMalformed p).setLink p (.up kept)

theorem State.errorKept_port (s : State) (p : Port) (kept : List Nat) : (s.errorKept p kept).port p = { s.port p with
    link := .up kept
    reception := none
    counters := if (s.port p).reception.isSome = true then bumpAt (s.port p).counters (portCtrIdx .malformed)
      else (s.port p).counters } := by
  obtain ⟨fr, q, o, n, l, g, e⟩ := s.abandonMalformed_frame p
  have port : (s.abandonMalformed p).port p = { s.port p with
      reception := none
      counters := if (s.port p).reception.isSome = true then bumpAt (s.port p).counters (portCtrIdx .malformed)
        else (s.port p).counters } := by
    rw [e]
    exact s.port_setPort_self p _
  rw [State.errorKept, State.setLink_eq, State.port_setPort_self, port]

/-- Whether a reset waits for its response on L is not changed by the error. -/
theorem State.errorKept_reset (s : State) (p : Port) (kept : List Nat) :
    ((s.errorKept p kept).agent.fullPending && (s.errorKept p kept).resetResponseOnL) =
      (s.agent.fullPending && s.resetResponseOnL) := by
  obtain ⟨fr, q, o, n, l, g, e⟩ := s.abandonMalformed_frame p
  rw [State.errorKept, e]
  cases p <;> rfl

/-- The sixteenth error kept takes the link down, after it has ended a reception (R89, R91). -/
theorem State.lineError_sixteenth {errors : List Nat} (link : (s.port p).link = .up errors) {sub : Nat}
    (many : errorLimit ≤ (keepErrors errors (s.errorTime sub)).length) :
    s.lineError p sub = (s.errorKept p (keepErrors errors (s.errorTime sub))).linkLoss p := by
  simp only [State.lineError, link, if_pos many]
  rfl

/-- Settles O10: the run broken, the error kept, and the link lost. -/
theorem lineCodeErrorKept : Obligations.LineCodeErrorKept := by
  intro s p sub hp
  refine ⟨fun run r a link => settles_whenRunning hp rfl (State.lineError_aligning link sub), fun errors link => ?_⟩
  intro now kept
  refine ⟨fun quiet few => ?kept, fun many => ?down, fun many noReset => ?counted⟩
  case kept =>
    refine settles_whenRunning hp rfl ((State.lineError_kept link few).trans ?_)
    rw [State.abandonMalformed_none quiet]
    rfl
  case down =>
    exact ⟨_, settles_whenRunning hp rfl (State.lineError_sixteenth link many), State.linkLoss_settle_down _ p⟩
  case counted =>
    have settles : Settles (.lineCodeError p sub) s ((s.errorKept p kept).linkLoss p) :=
      settles_whenRunning hp rfl (State.lineError_sixteenth link many)
    rw [← s.errorKept_reset p kept] at noReset
    obtain ⟨down, reception, counters⟩ := (State.linkLoss_lost noReset).settle
    have counter : ∀ c, State.portCounter (State.settle _) p c = _ := fun c =>
      (congrArg (fun v : Vector Word32 7 => v[portCtrIdx c]) counters).trans (lossCounters_get _ c)
    refine ⟨_, settles, down, reception, ?_, ?_⟩
    · rw [counter, State.errorKept_port]
      simp only [bumpAt_portCtr, State.portCounter]
      simp
    · rw [counter, State.errorKept_port]
      simp only [bumpAt_portCtr, State.portCounter]
      simp

end Sys2Proof.Machine
end

section
/-! SUPPORT. The ends of transmissions, and the part without power or held in reset: O34 and O6 (R86, R96, R103, R135, R165, R168,
R172, R180). -/

namespace Sys2Proof.Machine

variable {s : State} {p : FPort} {x : Queued}

/-! ### TRANSMISSION_END (R96, R103, R135) -/

/-- A transmission that ends takes no reset, unless it is the response of a pending one (R96, R135). -/
theorem State.endTx_finishes {q : Port} (tx : (s.port q).tx = some x)
    (noReset : (isResetResponse x && s.agent.fullPending) = false) : s.endTx q = s.finishTx q x.frame := by
  simp only [State.endTx, tx, noReset]
  rfl

theorem State.endTx_resets {q : Port} (tx : (s.port q).tx = some x)
    (reset : (isResetResponse x && s.agent.fullPending) = true) : s.endTx q = s.takeReset := by
  simp only [State.endTx, tx, reset, if_true]

/-- What field port `p` has sent returns its cells, unless the other field port holds the frame (R103). -/
theorem State.finishTx_field (s : State) (p : FPort) (f : Frame) : s.finishTx (portOf p) f =
    ((s.closeTx (portOf p) .endMarker).returnCells (if s.portHolds (otherPort p) f = true then [] else f.cells)).bumpPort
      (portOf p) .framesSent := by
  have holds : (s.closeTx (portOf p) .endMarker).portHolds (otherPort p) f = s.portHolds (otherPort p) f :=
    State.portHolds_congr rfl (congrArg PortState.tx (s.port_setPort_other _ (portOf_otherPort_ne p)))
  rw [State.finishTx, State.releaseTx_portOf, State.releaseShared_eq, holds]
  rfl

/-- Settles O34: the end of a transmission on L, of the response of a pending reset, and on a field port. -/
theorem transmissionEnds : Obligations.TransmissionEnds := by
  intro s x hp
  refine ⟨fun tx noReset => ?line, fun tx response pending _ => ?reset, fun p tx response => ?field⟩
  case line => exact settles_whenRunning hp rfl (State.endTx_finishes tx noReset)
  case reset =>
    refine ⟨_, settles_whenRunning hp rfl (State.endTx_resets tx (by rw [response, pending]; rfl)), ?_⟩
    rw [State.takeReset_settle]
    exact s.takeReset_fresh
  case field =>
    have ends := (State.endTx_finishes tx (by rw [response]; rfl)).trans (s.finishTx_field p x.frame)
    refine ⟨fun free => settles_whenRunning hp rfl (ends.trans ?_), fun shared => settles_whenRunning hp rfl (ends.trans ?_)⟩
    · rw [free, if_neg Bool.false_ne_true]
      rfl
    · rw [shared, if_pos rfl, State.returnCells, List.append_nil]
      rfl

/-! ### Without power, and held in reset (R86, R168, R172) -/

/-- The banks that an interruption leaves (R172). -/
theorem State.interrupt_banks (s : State) : InterruptedBanks s s.interrupt.banks := by
  cases job : s.op.job? with
  | none =>
    have same : s.interrupt.banks = s.banks := by rw [State.interrupt_noJob job]
    exact ⟨fun _ => same, fun j h => absurd (job.symm.trans h) nofun, fun j h => absurd (job.symm.trans h) nofun,
      fun j h => absurd (job.symm.trans h) nofun⟩
  | some j =>
    obtain ⟨m, n, e, target⟩ := State.interrupt_job job
    have banks : s.interrupt.banks = s.banks.set j.target m := by rw [e]
    rw [banks]
    refine ⟨fun h => absurd (job.symm.trans h) nofun, fun i hi => ?_, fun i hi cut => ?_, fun i hi written => ?_⟩ <;>
      obtain rfl : j = i := Option.some.inj (job.symm.trans hi)
    · exact PerBank.get_set_other _ _ (otherBank_ne j.target)
    · obtain ⟨-, bank⟩ := target.resolve_left fun h => cut h.1
      rw [bank, PerBank.get_set_self]
      exact cutBank_condition s.freeIx
    · obtain ⟨-, bank⟩ := target.resolve_right fun h => h.1 written
      rw [bank]
      cases j.target <;> rfl

theorem State.interrupt_rstnLow (s : State) : s.interrupt.rstnLow = s.rstnLow := by
  cases job : s.op.job? with
  | none => rw [State.interrupt_noJob job]
  | some j =>
    obtain ⟨m, n, e, -⟩ := State.interrupt_job job
    rw [e]

/-- A part that does not run is silent (R86). -/
theorem State.txOutput_stopped (h : s.phase ≠ .running) (q : Port) : s.txOutput q = .silent := by
  rw [State.txOutput, if_neg h]

/-- Settles O6: the power fails, RSTn goes low, the power rises with RSTn low, and what is only noted or filtered. -/
theorem powerLossAndHold : Obligations.PowerLossAndHold := by
  refine ⟨fun s => ?_, fun s n on high short => ?filtered⟩
  · intro stopped
    have cleared : ∀ ph, ph ≠ .running → stopped ph (s.interrupt.cleared ph) := fun ph hph =>
      ⟨rfl, s.interrupt_banks, rfl, rfl, State.txOutput_stopped hph⟩
    refine ⟨⟨_, rfl, cleared .off (by decide)⟩, fun on => ?asserted, fun low => ?held, fun off => ?noted⟩
    case asserted =>
      refine ⟨_, congrArg Host.Outcome.next (if_neg on), ?_, rfl⟩
      exact ⟨rfl, s.interrupt_banks, rfl, rfl, State.txOutput_stopped nofun⟩
    case held =>
      exact ⟨_, congrArg Host.Outcome.next (if_pos low), cleared .held (by decide), s.interrupt_rstnLow.trans low⟩
    case noted =>
      exact ⟨congrArg Host.Outcome.next (if_pos off), fun n => congrArg Host.Outcome.next (if_pos off)⟩
  case filtered =>
    have filtered : ¬ (s.rstnLow = true ∨ resetPulse ≤ n) := by
      rw [high]
      exact fun h => h.elim Bool.false_ne_true (Nat.not_le.2 short)
    exact congrArg Host.Outcome.next ((if_neg on).trans (if_neg filtered))

end Sys2Proof.Machine
end

section
/-! SUPPORT. The dispatch of a whole frame by header check, kind and port: O15 (R92 to R95, R105, R110). -/

namespace Sys2Proof.Machine

variable {s v : State} {p : FPort} {f : Frame}

/-! ### The header check (R92) -/

/-- A bad header check or an unknown kind drops the frame (R92). -/
theorem State.checkAndDispatch_unsound (s : State) (q : Port)
    (h : headerSound f.bytes = false ∨ frameKind f.bytes = none) : s.checkAndDispatch q f = s.headerError q f := by
  unfold State.checkAndDispatch
  rcases h with h | h
  · rw [h, if_neg Bool.false_ne_true]
  · rw [h, ite_self]

/-! ### Offers to the queues (R93, R95, R105) -/

/-- A pass-through frame that fits joins the lane unchanged (R93). -/
theorem State.passThrough_fits (fits : cellCount s.lane + f.cells.length ≤ 16) :
    s.passThrough f = { s with lane := s.lane ++ [⟨f, .passThrough⟩] } :=
  if_pos (decide_eq_true fits)

theorem State.passThrough_full (full : 16 < cellCount s.lane + f.cells.length) :
    s.passThrough f = (s.returnCells f.cells).bumpGlobal .laneFull :=
  if_neg fun h => Nat.not_le.2 full (of_decide_eq_true h)

/-- A command queue has room for a frame within its 32 cells (R110). -/
theorem State.commandTakes_iff : s.commandTakes p f = true ↔ cellCount (s.command.get p) + f.cells.length ≤ 32 :=
  decide_eq_true_iff

theorem State.offerCommand_takes (takes : s.commandTakes p f = true) :
    s.offerCommand p f = { s with command := s.command.set p (s.command.get p ++ [⟨f, .command⟩]) } :=
  if_pos takes

theorem State.offerCommand_full (full : ¬ s.commandTakes p f = true) :
    s.offerCommand p f = s.bumpGlobal (.fieldQueueFull p) :=
  if_neg full

/-- What is offered to one field port does not change what the other takes (R95). -/
theorem State.commandTakes_offered (s : State) (p : FPort) (f : Frame) :
    (s.offerCommand p f).commandTakes (otherPort p) f = s.commandTakes (otherPort p) f := by
  have queue : (s.offerCommand p f).command.get (otherPort p) = s.command.get (otherPort p) := by
    unfold State.offerCommand
    split
    · exact PerField.get_set_other _ _ (otherPort_ne p)
    · rfl
  show decide (cellCount ((s.offerCommand p f).command.get (otherPort p)) + _ ≤ 32) = _
  rw [queue]
  rfl

/-- A frame for the field that a port takes is held there: its cells do not return (R95). -/
theorem State.sendToField_taken (h : s.commandTakes .f0 f = true ∨ s.commandTakes .f1 f = true) :
    s.sendToField f = (s.offerCommand .f0 f).offerCommand .f1 f :=
  if_pos (Bool.or_eq_true_iff.2 h)

theorem State.sendToField_refused (h0 : ¬ s.commandTakes .f0 f = true) (h1 : ¬ s.commandTakes .f1 f = true) :
    s.sendToField f = ((s.bumpGlobal (.fieldQueueFull .f0)).bumpGlobal (.fieldQueueFull .f1)).returnCells f.cells := by
  have second : ¬ (s.offerCommand .f0 f).commandTakes .f1 f = true := (s.commandTakes_offered .f0 f).symm ▸ h1
  have neither : ¬ (s.commandTakes .f0 f || s.commandTakes .f1 f) = true := fun h =>
    (Bool.or_eq_true_iff.1 h).elim h0 h1
  rw [State.sendToField, if_neg neither, State.offerCommand_full second, State.offerCommand_full h0]
  rfl

/-! ### Dispatch by port (Table 6-2) -/

/-- COMMAND and MGMT_REQ come the wrong way on a field port (R93). -/
theorem State.dispatch_fieldControl {k : Kind} (h : k = .command ∨ k = .mgmtReq) :
    s.dispatch (portOf p) f k = s.fieldControl p f := by
  rcases h with rfl | rfl <;> cases p <;> rfl

/-- MGMT_RSP and MGMT_NOTICE from a field port pass through (R93). -/
theorem State.dispatch_passThrough {k : Kind} (h : k = .mgmtRsp ∨ k = .mgmtNotice) :
    s.dispatch (portOf p) f k = s.passThrough f := by
  rcases h with rfl | rfl <;> cases p <;> rfl

/-- DATA, MGMT_RSP and MGMT_NOTICE come the wrong way on L (R94). -/
theorem State.dispatch_lineData {k : Kind} (h : k = .data ∨ k = .mgmtRsp ∨ k = .mgmtNotice) :
    s.dispatch .l f k = s.lineData f := by
  rcases h with rfl | rfl | rfl <;> rfl

/-- COMMAND, and a MGMT_REQ for another station, go from L to the field (R94). -/
theorem State.dispatch_sendToField {k : Kind}
    (h : k = .command ∨ (k = .mgmtReq ∧ frameId f.bytes ≠ s.globals.station)) :
    s.dispatch .l f k = s.sendToField f := by
  rcases h with rfl | ⟨rfl, other⟩
  · rfl
  · exact if_neg other

/-- A MGMT_REQ from L for this part's station goes to the agent (R94). -/
theorem State.dispatch_consumeRequest (own : frameId f.bytes = s.globals.station) :
    s.dispatch .l f .mgmtReq = s.consumeRequest f :=
  if_pos own

/-- The end of a whole frame: its dispatch, and then follows what the part does at once (R92). -/
theorem frameReceived_settles {q : Port} {r : Reception} {k : Kind} (h : FrameEnds s q r k)
    (hv : (s.frameTaken q).dispatch q ⟨r.bytes, r.cells⟩ k = v) : Settles (.frameReceived q) s v := by
  rw [Settles, frameReceived_kind h, hv]

/-- Settles O15: the header check, the two wrong ways, the lane, and the field command queues. -/
theorem framesDispatched : Obligations.FramesDispatched := by
  refine ⟨fun s p r receiving long unsound => ?header, fun s r kind => ⟨fun p h wrong => ?control, fun h wrong => ?data⟩,
    fun s p r kind h passes => ?lane, fun s r kind h down => ?field⟩
  case header =>
    rw [Settles, frameReceived_whole receiving long, State.checkAndDispatch_unsound _ _ unsound]
    rfl
  case control => exact frameReceived_settles h (State.dispatch_fieldControl wrong)
  case data => exact frameReceived_settles h (State.dispatch_lineData wrong)
  case lane =>
    have dispatched := State.dispatch_passThrough (s := s.frameTaken (portOf p)) (p := p) (f := ⟨r.bytes, r.cells⟩) passes
    exact ⟨fun fits => frameReceived_settles h (dispatched.trans (State.passThrough_fits fits)),
      fun full => frameReceived_settles h (dispatched.trans (State.passThrough_full full))⟩
  case field =>
    intro x fits v
    have dispatched : v.dispatch .l x.frame kind = v.sendToField x.frame := State.dispatch_sendToField down
    have taken := fun h => dispatched.trans (State.sendToField_taken (s := v) (f := x.frame) h)
    have other : (v.offerCommand .f0 x.frame).commandTakes .f1 x.frame = v.commandTakes .f1 x.frame :=
      v.commandTakes_offered .f0 x.frame
    have takes : ∀ p, v.commandTakes p x.frame = true ↔ fits p := fun p => State.commandTakes_iff
    simp only [← takes]
    refine ⟨fun h0 h1 => ?both, fun h0 h1 => ?first, fun h0 h1 => ?second, fun h0 h1 => ?neither⟩
    case both =>
      refine frameReceived_settles h ((taken (.inl h0)).trans ?_)
      rw [State.offerCommand_takes (other.trans h1), State.offerCommand_takes h0]
      rfl
    case first =>
      refine frameReceived_settles h ((taken (.inl h0)).trans ?_)
      rw [State.offerCommand_full (other.symm ▸ h1), State.offerCommand_takes h0]
      rfl
    case second =>
      refine frameReceived_settles h ((taken (.inr h1)).trans ?_)
      rw [State.offerCommand_takes (other.trans h1), State.offerCommand_full h0]
      rfl
    case neither => exact frameReceived_settles h (dispatched.trans (State.sendToField_refused h0 h1))

end Sys2Proof.Machine
end

section
/-! SUPPORT. Requests that come to the agent, and the end of its turn: O16 (R94, R101, R102, R118, R119). -/

namespace Sys2Proof.Machine

variable {s : State} {f : Frame} {bytes : List Byte} {x : CellId} {rest : List CellId}

/-- The agent takes no request: it is busy, or a FULL reset is pending (R119). -/
theorem State.agentReady_false (h : s.agent.busy = true ∨ s.agent.fullPending = true) : s.agentReady = false := by
  rcases h with h | h <;> simp [State.agentReady, h]

theorem State.agentReady_true (idle : s.agent.busy = false) (noReset : s.agent.fullPending = false) :
    s.agentReady = true := by
  rw [State.agentReady, idle, noReset]
  rfl

theorem State.runAgent_notReady (h : s.agentReady = false) : s.runAgent = s := by
  rw [State.runAgent, if_neg (Bool.eq_false_iff.1 h)]

theorem State.runAgent_empty (empty : s.agent.requests = []) : s.runAgent = s := by
  simp only [State.runAgent, empty, ite_self]

/-- The agent, when it may, takes the oldest request (R119). -/
theorem State.runAgent_takes {more : List Frame} (ready : s.agentReady = true) (waiting : s.agent.requests = f :: more) :
    s.runAgent = ((s.setAgent { s.agent with requests := more }).release f).takeFrame f.bytes := by
  simp only [State.runAgent, if_pos ready, waiting]

/-! ### Requests consumed from L (R118, R119) -/

/-- A request that comes while the agent takes none joins the request queue where fewer than 4 wait (R118). -/
theorem State.consumeRequest_waits (h : s.agentReady = false) (room : s.agent.requests.length < 4) :
    s.consumeRequest f = { s with agent := { s.agent with requests := s.agent.requests ++ [f] } } := by
  have offered : s.offerRequest f = s.setAgent { s.agent with requests := s.agent.requests ++ [f] } := if_pos room
  rw [State.consumeRequest, offered, State.runAgent_notReady (by exact h)]
  rfl

/-- The fifth request overflows (R118). -/
theorem State.consumeRequest_overflows (h : s.agentReady = false) (full : 4 ≤ s.agent.requests.length) :
    s.consumeRequest f = (s.returnCells f.cells).bumpGlobal .requestOverflow := by
  have offered : s.offerRequest f = (s.release f).bumpGlobal .requestOverflow := if_neg (Nat.not_lt.2 full)
  rw [State.consumeRequest, offered, State.runAgent_notReady (by exact h)]
  rfl

/-- An idle agent takes a request at once (R119). -/
theorem State.consumeRequest_taken (ready : s.agentReady = true) (empty : s.agent.requests = []) :
    s.consumeRequest f = (s.returnCells f.cells).takeFrame f.bytes := by
  have room : s.agent.requests.length < requestLimit := by rw [empty]; decide
  have waiting : s.agent.requests ++ [f] = f :: [] := by rw [empty]; rfl
  have offered : s.offerRequest f = s.setAgent { s.agent with requests := s.agent.requests ++ [f] } := if_pos room
  have same : ({ s.agent with requests := [] } : Agent) = s.agent := by rw [← empty]
  rw [State.consumeRequest, offered, State.runAgent_takes (by exact ready) waiting]
  simp only [State.setAgent_agent, same]
  rfl

/-! ### Request rows (log 6) -/

/-- A request that does not come to an idle agent is consumed in the cells its frame is granted (R101, R118). -/
theorem State.requestComes_consumed {v : State} {cells : List CellId}
    (granted : s.grant (cellsFor bytes.length) 0 = some (cells, v)) (h : v.agentReady = false) (take : State → State) :
    s.requestComes bytes take = v.consumeRequest ⟨bytes, cells⟩ := by
  simp only [State.requestComes, granted, h, Bool.false_and, Bool.false_eq_true, if_false]

/-- The frame of a request row takes the first free cell (R101, R102). -/
theorem State.agentRequest_consumed {m t : Word16} {q : Request} (free : s.free = x :: rest)
    (h : s.agentReady = false) : s.agentRequest m t q =
      State.consumeRequest { s with free := rest } ⟨s.requestFrame m t q, [x]⟩ := by
  have granted : s.grant (cellsFor (s.requestFrame m t q).length) 0 = some ([x], { s with free := rest }) := by
    rw [s.requestFrame_cell]
    simp [State.grant, free]
  exact State.requestComes_consumed granted h _

/-- Settles O16: the requests from L, the request rows, and the end of the turn. -/
theorem agentTakesRequests : Obligations.AgentTakesRequests := by
  refine ⟨fun s r h own => ?line, fun s m t c q hp asks => ?row, fun s hp busy => ?turn⟩
  case line =>
    have dispatched := State.dispatch_consumeRequest (s := s.frameTaken .l) (f := ⟨r.bytes, r.cells⟩) own
    exact ⟨fun busy room => frameReceived_settles h
        (dispatched.trans (State.consumeRequest_waits (State.agentReady_false (.inl busy)) room)),
      fun busy full => frameReceived_settles h
        (dispatched.trans (State.consumeRequest_overflows (State.agentReady_false (.inl busy)) full)),
      fun idle noReset empty => frameReceived_settles h
        (dispatched.trans (State.consumeRequest_taken (State.agentReady_true idle noReset) empty))⟩
  case row =>
    have row := asks.exec_eq s
    have cell := s.requestFrame_cell m t q
    refine ⟨fun exhausted => settles_whenRunning hp row (State.requestComes_refused (by rw [exhausted, cell]; decide) _),
      fun x rest free away => ?_⟩
    have comes := State.agentRequest_consumed (m := m) (t := t) (q := q) free (State.agentReady_false away)
    exact ⟨fun room => settles_whenRunning hp row
        (comes.trans (State.consumeRequest_waits (State.agentReady_false away) room)),
      fun full => settles_whenRunning hp row
        (comes.trans (State.consumeRequest_overflows (State.agentReady_false away) full))⟩
  case turn =>
    have ends : s.endTurn = (s.setAgent { s.agent with busy := false }).runAgent := if_pos busy
    refine ⟨fun nothing => settles_whenRunning hp rfl (ends.trans ?_), fun f more waiting noReset =>
      settles_whenRunning hp rfl (ends.trans ?_)⟩
    · rcases nothing with empty | pending
      · exact State.runAgent_empty empty
      · exact State.runAgent_notReady (State.agentReady_false (.inr pending))
    · exact State.runAgent_takes (State.agentReady_true rfl noReset) waiting

end Sys2Proof.Machine
end

section
/-! SUPPORT. The frame of a request, read back: O45 (R92, R120, R176, R177). -/

namespace Sys2Proof.Machine

/-! ### Bytes read at an offset -/

theorem length_bytesAt (l : List Byte) (i n : Nat) : (bytesAt l i n).length = n := by simp [bytesAt]

/-- Bytes that stand behind `i` others are read at offset `i`. -/
theorem bytesAt_append {a b c : List Byte} {i n : Nat} (ha : a.length = i) (hb : b.length = n) :
    bytesAt (a ++ (b ++ c)) i n = b := by
  subst ha hb
  refine List.ext_getElem (length_bytesAt _ _ _) fun j h1 h2 => ?_
  simp only [bytesAt, List.getElem_map, List.getElem_range, byteAt_append_right]
  simp [byteAt, List.getD_eq_getElem?_getD, List.getElem?_append_left h2, h2]

/-- Bytes filled with 00h read as the bytes themselves do, which are 00h beyond their end. -/
theorem byteAt_bytesAt {l : List Byte} {n : Nat} (h : l.length ≤ n) (i : Nat) : byteAt (bytesAt l 0 n) i = byteAt l i := by
  by_cases hi : i < n
  · simp [byteAt, bytesAt, List.getD_eq_getElem?_getD, hi]
  · have beyond : l.length ≤ i := by omega
    simp [byteAt, bytesAt, List.getD_eq_getElem?_getD, hi, beyond]

/-- A 16-bit number that stands behind a list is read back. -/
theorem word16At_append_be16 (l : List Byte) (x : Word16) : word16At (l ++ be16 x) l.length = x := by
  have first : byteAt (l ++ be16 x) l.length = byteAt (be16 x) 0 := byteAt_append_right l (be16 x) 0
  rw [word16At, first, byteAt_append_right l (be16 x) 1]
  exact be16_joined x

/-! ### Requests in a payload (Table 12-3) -/

/-- What a payload holds depends on the bytes it reads as. -/
theorem requestOfPayload_congr {l l' : List Byte} (h : ∀ i, byteAt l i = byteAt l' i) :
    requestOfPayload l = requestOfPayload l' ∧ managerOfPayload l = managerOfPayload l' := by
  simp only [requestOfPayload, managerOfPayload, entryRecordAt, globalsRecordAt, word16At, h, and_self]

/-- A code above 15, or 00h, names no request (Table 12-2). -/
theorem requestOfPayload_unknown {l : List Byte} (h : 15 < (byteAt l 2).toNat ∨ byteAt l 2 = 0#8) :
    requestOfPayload l = .unknown (byteAt l 2) := by
  have known : ∀ n : Nat, 1 ≤ n → n ≤ 15 → (byteAt l 2 = BitVec.ofNat 8 n) = False := fun n low high =>
    eq_false fun e => by
      have code : (byteAt l 2).toNat = n := by rw [e, BitVec.toNat_ofNat]; omega
      rcases h with above | zero
      · omega
      · rw [zero, BitVec.toNat_ofNat] at code
        omega
  simp only [requestOfPayload, known 1, known 2, known 3, known 4, known 5, known 6, known 7, known 8, known 9, known 10,
    known 11, known 12, known 13, known 14, known 15, Nat.reduceLeDiff, if_false]

/-- A request's payload holds exactly its manager id and the request (R177). -/
theorem requestOfPayload_requestPayload {m : Word16} {q : Request}
    (unknown : ∀ code, q = .unknown code → 15 < code.toNat ∨ code = 0#8) :
    requestOfPayload (requestPayload m q) = q ∧ managerOfPayload (requestPayload m q) = m := by
  refine ⟨?_, be16_joined m⟩
  cases q with
  | unknown code => exact requestOfPayload_unknown (unknown code rfl)
  | stageEntry slot action present rec =>
    have record : entryRecordAt (requestPayload m (.stageEntry slot action present rec)) 6 = rec := by
      simp [entryRecordAt, requestPayload, requestArgs, entryRecordBytes, be16, word16At, byteAt, be16_joined]
    exact congrArg (Request.stageEntry slot action present) record
  | stageGlobals rec =>
    have record : globalsRecordAt (requestPayload m (.stageGlobals rec)) 3 = rec := by
      simp [globalsRecordAt, requestPayload, requestArgs, globalsRecordBytes, be16, word16At, byteAt, be16_joined]
    exact congrArg Request.stageGlobals record
  | _ => rfl

/-! ### A management frame of one partition (R117, R177) -/

/-- Payloads of up to 32 bytes fill one partition. -/
theorem partsFor_one {payload : List Byte} (h : payload.length ≤ 32) : partsFor payload = 1 := by
  unfold partsFor ceilDiv
  omega

/-- Their frame: the header, the payload filled to 32 bytes, and the partition check. -/
theorem mgmtFrame_one {kind : Kind} {station : Id12} {seq : Word16} {payload : List Byte} (h : payload.length ≤ 32) :
    mgmtFrame kind station seq payload = header (0x40#8 ||| kindCode kind) 0#8 1 station seq 0#8 ++
      (bytesAt payload 0 32 ++ be16 (crc16 (bytesAt payload 0 32))) := by
  simp only [mgmtFrame, partsFor_one h]
  rfl

section
variable {h part : List Byte} (eight : h.length = 8) (size : part.length = 32)
include eight size

/-- A partition behind the 8 bytes of a header, its check behind it, is good (R41, R176). -/
theorem partGood_first : partGood (h ++ (part ++ be16 (crc16 part))) 32 0 = true := by
  have behind : (h ++ (part ++ be16 (crc16 part))).drop 8 = part ++ be16 (crc16 part) := List.drop_left' eight
  have content : partPayload (h ++ (part ++ be16 (crc16 part))) 32 0 = part := by
    rw [partPayload, Nat.zero_mul, Nat.add_zero, behind, List.take_left' size]
  have check : partWithCheck (h ++ (part ++ be16 (crc16 part))) 32 0 = part ++ be16 (crc16 part) := by
    rw [partWithCheck, Nat.zero_mul, Nat.add_zero, behind, List.take_of_length_le (by simp [size])]
  rw [partGood, content, check, ← size, word16At_append_be16, beq_self_eq_true]

/-- A frame of that one partition passes the frame test, given its size code and count (R120). -/
theorem requestFrameOk_first (code : sizeOfCode (byteAt (h ++ (part ++ be16 (crc16 part))) 0) = some .p32)
    (count : frameCount (h ++ (part ++ be16 (crc16 part))) = 1) :
    requestFrameOk (h ++ (part ++ be16 (crc16 part))) = true := by
  have length : (h ++ (part ++ be16 (crc16 part))).length = frameLength 32 1 := by simp [eight, size, frameLength]
  have good : goodMap (h ++ (part ++ be16 (crc16 part))) 32 1 = [true] := by
    rw [goodMap, List.range_one, List.map_singleton, partGood_first eight size]
  rw [requestFrameOk, code, count, length, good]
  simp

/-- The payload of such a frame is that partition (R177). -/
theorem mgmtPayload_first (count : frameCount (h ++ (part ++ be16 (crc16 part))) = 1) :
    mgmtPayload (h ++ (part ++ be16 (crc16 part))) = part := by
  rw [mgmtPayload, count, List.range_one, List.flatMap_singleton]
  exact bytesAt_append eight size

end

/-- Settles O45: the header's fields, the one good partition, and the payload it carries. -/
theorem requestFramesDecode : Obligations.RequestFramesDecode := by
  intro s m t q unknown f
  have short := length_requestPayload m q
  have bytes : f = _ := mgmtFrame_one short
  have long : f.length = 42 := (length_mgmtFrame _ _ _ _).trans (congrArg (frameLength 32) (partsFor_one short))
  have size := length_bytesAt (requestPayload m q) 0 32
  have first : byteAt f 0 = 0x43#8 := by
    rw [bytes]
    rfl
  have count : frameCount f = 1 := by
    rw [bytes]
    exact frameCount_header _ _ _ _ _ _ (by decide) (by decide)
  have payload : mgmtPayload f = bytesAt (requestPayload m q) 0 32 := by
    rw [bytes] at count ⊢
    exact mgmtPayload_first rfl size count
  have ok : requestFrameOk f = true := by
    have code : sizeOfCode (byteAt f 0) = some .p32 := by rw [first]; decide
    rw [bytes] at code count ⊢
    exact requestFrameOk_first rfl size code count
  obtain ⟨request, manager⟩ := requestOfPayload_congr (byteAt_bytesAt short)
  obtain ⟨ownRequest, ownManager⟩ := requestOfPayload_requestPayload (m := m) unknown
  rw [payload, request, manager, ownRequest, ownManager]
  have kind : frameKind f = some .mgmtReq := by rw [frameKind, first]; decide
  refine ⟨long, ?_, kind, ?_, ?_, ok, rfl, rfl⟩ <;> rw [bytes]
  · exact headerSound_header ..
  · exact frameId_header ..
  · exact frameSeq_header ..

end Sys2Proof.Machine
end

section
/-! SUPPORT. The law of the pool without the count of sharing: cells with one holder and cells of the two field ports, and what it
says when a field port takes a frame or lets one go (R101, R103). -/

namespace Sys2Proof.Machine

/-! ### Cells of frames -/

theorem mem_cellsOf {l : List Frame} {c : CellId} : c ∈ cellsOf l ↔ ∃ f ∈ l, c ∈ f.cells := List.mem_flatMap

theorem cellsOf_append (a b : List Frame) : cellsOf (a ++ b) = cellsOf a ++ cellsOf b := List.flatMap_append

@[simp] theorem cellsOf_nil : cellsOf [] = [] := rfl

theorem cellsOf_sublist {a b : List Frame} (h : a.Sublist b) : (cellsOf a).Sublist (cellsOf b) := h.flatMap _

theorem cellsOf_perm {a b : List Frame} (h : a.Perm b) : (cellsOf a).Perm (cellsOf b) := h.flatMap_right _

theorem cellsOf_cons (f : Frame) (l : List Frame) : cellsOf (f :: l) = f.cells ++ cellsOf l := rfl

/-- The cells of two lists of frames, those of a frame in both once (R101). -/
def unionCells (a b : List Frame) : List CellId :=
  cellsOf a ++ cellsOf (b.filter (fun f => !a.any (fun g => g.cells == f.cells)))

/-- Two frames that meet in a cell are one frame: they hold the same cells (log 18). -/
def MeetAsOne (a b : List Frame) : Prop := ∀ f ∈ a, ∀ g ∈ b, ∀ c ∈ f.cells, c ∈ g.cells → f.cells = g.cells

theorem MeetAsOne.symm {a b : List Frame} (h : MeetAsOne a b) : MeetAsOne b a := fun g hg f hf c hc hc' =>
  (h f hf g hg c hc' hc).symm

/-- In a list that holds no cell twice, two frames that meet are the same. -/
theorem meetAsOne_of_nodup {l : List Frame} (h : (cellsOf l).Nodup) : MeetAsOne l l := by
  induction l with
  | nil => exact fun f hf => absurd hf List.not_mem_nil
  | cons x l ih =>
    obtain ⟨-, once, apart⟩ := List.nodup_append'.1 h
    have alone : ∀ g ∈ l, ∀ c ∈ x.cells, c ∉ g.cells := fun g hg c hc hc' => apart hc (mem_cellsOf.2 ⟨g, hg, hc'⟩)
    intro f hf g hg c hc hc'
    rcases List.mem_cons.1 hf with rfl | hf <;> rcases List.mem_cons.1 hg with e | hg
    · rw [e]
    · exact absurd hc' (alone g hg c hc)
    · exact absurd hc (alone f hf c (e ▸ hc'))
    · exact ih once f hf g hg c hc hc'

theorem mem_unionCells {a b : List Frame} {c : CellId} : c ∈ unionCells a b ↔ c ∈ cellsOf a ∨ c ∈ cellsOf b := by
  rw [unionCells, List.mem_append]
  refine ⟨Or.imp_right fun h => ?_, fun h => ?_⟩
  · obtain ⟨g, hg, hc⟩ := mem_cellsOf.1 h
    exact mem_cellsOf.2 ⟨g, List.mem_of_mem_filter hg, hc⟩
  · rcases h with h | h
    · exact .inl h
    · obtain ⟨g, hg, hc⟩ := mem_cellsOf.1 h
      by_cases both : a.any (fun f => f.cells == g.cells) = true
      · obtain ⟨f, hf, e⟩ := List.any_eq_true.1 both
        exact .inl (mem_cellsOf.2 ⟨f, hf, by rwa [eq_of_beq e]⟩)
      · exact .inr (mem_cellsOf.2 ⟨g, List.mem_filter.2 ⟨hg, by simp [both]⟩, hc⟩)

/-- Counted once where shared, no cell comes twice exactly when frames that meet are one. -/
theorem nodup_unionCells {a b : List Frame} (ha : (cellsOf a).Nodup) (hb : (cellsOf b).Nodup) :
    (unionCells a b).Nodup ↔ MeetAsOne a b := by
  have kept := cellsOf_sublist (List.filter_sublist (p := fun f => !a.any (fun g => g.cells == f.cells)) (l := b))
  rw [unionCells, List.nodup_append']
  refine ⟨fun ⟨_, _, apart⟩ f hf g hg c hc hc' => ?_, fun meet => ⟨ha, hb.sublist kept, fun c hc hc' => ?_⟩⟩
  · by_cases both : a.any (fun f => f.cells == g.cells) = true
    · obtain ⟨f', hf', e⟩ := List.any_eq_true.1 both
      rw [← eq_of_beq e] at hc' ⊢
      exact meetAsOne_of_nodup ha f hf f' hf' c hc hc'
    · exact absurd (mem_cellsOf.2 ⟨g, List.mem_filter.2 ⟨hg, by simp [both]⟩, hc'⟩)
        (apart (mem_cellsOf.2 ⟨f, hf, hc⟩))
  · obtain ⟨f, hf, hcf⟩ := mem_cellsOf.1 hc
    obtain ⟨g, hg, hcg⟩ := mem_cellsOf.1 hc'
    obtain ⟨hg, new⟩ := List.mem_filter.1 hg
    have same := meet f hf g hg c hcf hcg
    have both : a.any (fun f => f.cells == g.cells) = true := List.any_eq_true.2 ⟨f, hf, beq_iff_eq.2 same⟩
    rw [both] at new
    cases new

/-! ### The law -/

/-- The law of the pool: cells that are free or have one holder, and the frames of each field port. No cell is twice in either,
none is in both, field frames that meet are one, and every cell of the pool is somewhere (R101). -/
structure PoolLaw (sole : List CellId) (field : FPort → List Frame) : Prop where
  sole_once : sole.Nodup
  once : ∀ p, (cellsOf (field p)).Nodup
  apart : ∀ p, ∀ c ∈ cellsOf (field p), c ∉ sole
  shared : ∀ p q, MeetAsOne (field p) (field q)
  whole : ∀ c, c ∈ sole ∨ ∃ p, c ∈ cellsOf (field p)

section
variable {sole sole' : List CellId} {field field' : FPort → List Frame} {p : FPort} {f : Frame}

/-- The order of the cells and of the frames does not matter. -/
theorem PoolLaw.congr (h : PoolLaw sole field) (cells : sole'.Perm sole) (frames : ∀ p, (field' p).Perm (field p)) :
    PoolLaw sole' field' where
  sole_once := cells.nodup_iff.2 h.sole_once
  once p := (cellsOf_perm (frames p)).nodup_iff.2 (h.once p)
  apart p c hc hs := h.apart p c ((cellsOf_perm (frames p)).mem_iff.1 hc) (cells.mem_iff.1 hs)
  shared p q x hx y hy := h.shared p q x ((frames p).mem_iff.1 hx) y ((frames q).mem_iff.1 hy)
  whole c := (h.whole c).imp cells.mem_iff.2 fun ⟨p, hc⟩ => ⟨p, (cellsOf_perm (frames p)).mem_iff.2 hc⟩

theorem otherPort_cases (p q : FPort) : q = p ∨ q = otherPort p := by cases p <;> cases q <;> decide

/-- Field port `p` lets a frame go; the other field port keeps its frames. -/
structure LetGo (p : FPort) (f : Frame) (field field' : FPort → List Frame) : Prop where
  own : field p = f :: field' p
  other : field' (otherPort p) = field (otherPort p)

theorem LetGo.sublist (g : LetGo p f field field') (q : FPort) : (field' q).Sublist (field q) := by
  rcases otherPort_cases p q with rfl | rfl
  · rw [g.own]
    exact List.sublist_cons_self _ _
  · rw [g.other]

theorem LetGo.mem (g : LetGo p f field field') {q : FPort} {c : CellId} (hc : c ∈ cellsOf (field q)) :
    c ∈ f.cells ∨ c ∈ cellsOf (field' q) := by
  rcases otherPort_cases p q with rfl | rfl
  · rw [g.own, cellsOf_cons] at hc
    exact List.mem_append.1 hc
  · exact .inr (by rwa [g.other])

/-- A frame that the other field port holds too leaves its cells with it (R103). -/
theorem PoolLaw.letGo_shared (h : PoolLaw sole field) (g : LetGo p f field field')
    (held : ∃ x ∈ field (otherPort p), x.cells = f.cells) : PoolLaw sole field' where
  sole_once := h.sole_once
  once q := (h.once q).sublist (cellsOf_sublist (g.sublist q))
  apart q c hc := h.apart q c ((cellsOf_sublist (g.sublist q)).subset hc)
  shared q r x hx y hy := h.shared q r x ((g.sublist q).subset hx) y ((g.sublist r).subset hy)
  whole c := (h.whole c).imp_right fun ⟨q, hc⟩ => by
    rcases g.mem hc with hf | hc
    · obtain ⟨x, hx, e⟩ := held
      exact ⟨otherPort p, by rw [g.other]; exact mem_cellsOf.2 ⟨x, hx, e ▸ hf⟩⟩
    · exact ⟨q, hc⟩

/-- The cells of a frame that the other field port does not hold have no holder then (R103). -/
theorem PoolLaw.letGo_last (h : PoolLaw sole field) (g : LetGo p f field field')
    (last : ∀ x ∈ field (otherPort p), x.cells ≠ f.cells) : PoolLaw (f.cells ++ sole) field' := by
  have own := h.once p
  rw [g.own, cellsOf_cons] at own
  obtain ⟨cells, -, new⟩ := List.nodup_append'.1 own
  have mine : f ∈ field p := by rw [g.own]; exact List.mem_cons_self
  have away : ∀ c ∈ f.cells, c ∉ sole := fun c hc => h.apart p c (mem_cellsOf.2 ⟨f, mine, hc⟩)
  refine ⟨List.nodup_append'.2 ⟨cells, h.sole_once, away⟩, fun q => (h.once q).sublist (cellsOf_sublist (g.sublist q)),
    fun q c hc => ?_, fun q r x hx y hy => h.shared q r x ((g.sublist q).subset hx) y ((g.sublist r).subset hy), fun c => ?_⟩
  · have old := h.apart q c ((cellsOf_sublist (g.sublist q)).subset hc)
    refine fun hs => (List.mem_append.1 hs).elim (fun hf => ?_) old
    rcases otherPort_cases p q with rfl | rfl
    · exact new hf hc
    · rw [g.other] at hc
      obtain ⟨x, hx, hcx⟩ := mem_cellsOf.1 hc
      exact last x hx (h.shared p _ f mine x hx c hf hcx).symm
  · rcases h.whole c with hs | ⟨q, hc⟩
    · exact .inl (List.mem_append_right _ hs)
    · exact (g.mem hc).imp (List.mem_append_left _) fun hc => ⟨q, hc⟩

/-- A frame without a holder joins the frames of one field port or of both (R95). -/
theorem PoolLaw.join (h : PoolLaw (f.cells ++ sole) field) (each : ∀ p, field' p = field p ∨ field' p = field p ++ [f])
    (some_port : ∃ p, field' p = field p ++ [f]) : PoolLaw sole field' := by
  obtain ⟨cells, rest, away⟩ := List.nodup_append'.1 h.sole_once
  have frames : ∀ {p x}, x ∈ field' p → x ∈ field p ∨ x = f := fun {p x} hx => by
    rcases each p with e | e <;> rw [e] at hx
    · exact .inl hx
    · exact (List.mem_append.1 hx).imp_right List.mem_singleton.1
  have kept : ∀ {p x}, x ∈ field p → x ∈ field' p := fun {p x} hx => by
    rcases each p with e | e <;> rw [e]
    · exact hx
    · exact List.mem_append_left _ hx
  have new : ∀ {p x c}, x ∈ field p → c ∈ x.cells → c ∉ f.cells := fun hx hc hf =>
    h.apart _ _ (mem_cellsOf.2 ⟨_, hx, hc⟩) (List.mem_append_left _ hf)
  refine ⟨rest, fun p => ?_, fun p c hc hs => ?_, fun p q x hx y hy c hc hc' => ?_, fun c => ?_⟩
  · rcases each p with e | e <;> rw [e]
    · exact h.once p
    · rw [cellsOf_append]
      refine List.nodup_append'.2 ⟨h.once p, by simpa [cellsOf] using cells, fun c hc hf => ?_⟩
      obtain ⟨x, hx, hcx⟩ := mem_cellsOf.1 hc
      exact new hx hcx (by simpa [cellsOf] using hf)
  · obtain ⟨x, hx, hcx⟩ := mem_cellsOf.1 hc
    rcases frames hx with hx | rfl
    · exact h.apart p c (mem_cellsOf.2 ⟨x, hx, hcx⟩) (List.mem_append_right _ hs)
    · exact away hcx hs
  · rcases frames hx with hx | rfl <;> rcases frames hy with hy | rfl
    · exact h.shared p q x hx y hy c hc hc'
    · exact absurd hc' (new hx hc)
    · exact absurd hc (new hy hc')
    · rfl
  · rcases h.whole c with hs | ⟨p, hc⟩
    · rcases List.mem_append.1 hs with hf | hs
      · obtain ⟨p, e⟩ := some_port
        refine .inr ⟨p, mem_cellsOf.2 ⟨f, ?_, hf⟩⟩
        rw [e]
        exact List.mem_append_right _ (List.mem_singleton.2 rfl)
      · exact .inl hs
    · obtain ⟨x, hx, hcx⟩ := mem_cellsOf.1 hc
      exact .inr ⟨p, mem_cellsOf.2 ⟨x, kept hx, hcx⟩⟩

end

/-! ### The invariant in terms of the law -/

/-- The cells that are free or whose frame has one holder: receptions, repair slots, the lane and the class queues, the
transmission on L, and the request queue (R101). -/
def State.soleCells (s : State) : List CellId :=
  s.free ++ (s.receptionCells .f0 ++ s.receptionCells .f1 ++ s.receptionCells .l ++
    cellsOf (s.repair.toList.flatMap (fun h => h.toList.map (fun h => h.frame))) ++
    cellsOf ((s.lane ++ s.classes.toList.flatten ++ (s.port .l).tx.toList).map (fun x => x.frame)) ++
    cellsOf s.agent.requests)

theorem State.free_append_cellsHeld (s : State) :
    s.free ++ s.cellsHeld = s.soleCells ++ unionCells (s.fieldFrames .f0) (s.fieldFrames .f1) := by
  simp only [State.cellsHeld, State.soleCells, unionCells, List.append_assoc]

theorem allCells_nodup : allCells.Nodup := by decide +kernel

theorem mem_allCells (c : CellId) : c ∈ allCells := by revert c; decide +kernel

/-- The invariant is the law of the pool for the part's cells with one holder and the frames of its field ports (R101). -/
theorem State.poolSound_iff {s : State} : s.PoolSound ↔ PoolLaw s.soleCells s.fieldFrames := by
  refine ⟨fun h => ?_, fun h => ⟨?_, h.once⟩⟩
  · have whole := h.whole
    rw [s.free_append_cellsHeld] at whole
    obtain ⟨sole, union, apart⟩ := List.nodup_append'.1 (whole.nodup_iff.2 allCells_nodup)
    have meet := (nodup_unionCells (h.once .f0) (h.once .f1)).1 union
    refine ⟨sole, h.once, fun p c hc hs => apart hs (mem_unionCells.2 ?_), fun p q => ?_, fun c => ?_⟩
    · cases p with
      | f0 => exact .inl hc
      | f1 => exact .inr hc
    · cases p <;> cases q
      · exact meetAsOne_of_nodup (h.once .f0)
      · exact meet
      · exact meet.symm
      · exact meetAsOne_of_nodup (h.once .f1)
    · rcases List.mem_append.1 (whole.mem_iff.2 (mem_allCells c)) with hs | hu
      · exact .inl hs
      · exact .inr ((mem_unionCells.1 hu).elim (fun hc => ⟨.f0, hc⟩) fun hc => ⟨.f1, hc⟩)
  · rw [s.free_append_cellsHeld]
    have union := (nodup_unionCells (h.once .f0) (h.once .f1)).2 (h.shared .f0 .f1)
    refine (List.perm_ext_iff_of_nodup (List.nodup_append'.2 ⟨h.sole_once, union, fun c hs hu => ?_⟩) allCells_nodup).2 fun c =>
      iff_of_true ?_ (mem_allCells c)
    · rcases mem_unionCells.1 hu with hc | hc
      · exact h.apart .f0 c hc hs
      · exact h.apart .f1 c hc hs
    · rcases h.whole c with hs | ⟨p, hc⟩
      · exact List.mem_append_left _ hs
      · refine List.mem_append_right _ (mem_unionCells.2 ?_)
        cases p with
        | f0 => exact .inl hc
        | f1 => exact .inr hc

/-- Free cells and cells held are 256 (R101). -/
theorem State.PoolSound.count {s : State} (h : s.PoolSound) : s.free.length + s.cellsHeld.length = 256 := by
  rw [← List.length_append, h.whole.length_eq, length_allCells]

end Sys2Proof.Machine
end

section
/-! SUPPORT. What an update of one holder does to the cells with one holder, counted cell by cell, and the operations on the pool
stated by the cells they add to what the part accounts for (R101 to R105). -/

namespace Sys2Proof.Machine

variable {s t u : State} {l m : List CellId}

/-! ### The holders, one by one -/

/-- The cells of frames in queues. -/
def queuedCells (l : List Queued) : List CellId := cellsOf (l.map (fun x => x.frame))

theorem queuedCells_append (a b : List Queued) : queuedCells (a ++ b) = queuedCells a ++ queuedCells b := by
  rw [queuedCells, List.map_append, cellsOf_append]
  rfl

@[simp] theorem queuedCells_nil : queuedCells [] = [] := rfl

theorem queuedCells_cons (x : Queued) (l : List Queued) : queuedCells (x :: l) = x.frame.cells ++ queuedCells l := rfl

/-- The cells of a held copy, of a FREE repair slot none. -/
def copyCells (x : Option Held) : List CellId := cellsOf (x.toList.map (fun h => h.frame))

/-- The cells of a reception, if there is one. -/
def receivedCells (x : Option Reception) : List CellId :=
  match x with
  | some r => r.cells
  | none => []

/-- What a port holds alone: its reception, and on L its transmission. -/
def portCells (p : Port) (x : PortState) : List CellId :=
  receivedCells x.reception ++ if p = .l then queuedCells x.tx.toList else []

/-- A cell is counted in each holder (R101). -/
theorem State.count_soleCells (s : State) (c : CellId) : s.soleCells.count c = s.free.count c +
    ((portCells .f0 (s.port .f0)).count c + (portCells .f1 (s.port .f1)).count c + (portCells .l (s.port .l)).count c) +
    (s.repair.toList.flatMap copyCells).count c +
    ((queuedCells s.lane).count c + (s.classes.toList.flatMap queuedCells).count c) +
    (cellsOf s.agent.requests).count c := by
  have repair : cellsOf (s.repair.toList.flatMap (fun h => h.toList.map (fun h => h.frame))) =
      s.repair.toList.flatMap copyCells := List.flatMap_assoc
  have classes : queuedCells s.classes.toList.flatten = s.classes.toList.flatMap queuedCells := by
    induction s.classes.toList with
    | nil => rfl
    | cons a l ih => rw [List.flatten_cons, queuedCells_append, ih, List.flatMap_cons]
  have received : ∀ p, s.receptionCells p = receivedCells (s.port p).reception := fun p => rfl
  have f0 : portCells .f0 (s.port .f0) = receivedCells (s.port .f0).reception := List.append_nil _
  have f1 : portCells .f1 (s.port .f1) = receivedCells (s.port .f1).reception := List.append_nil _
  have line : portCells .l (s.port .l) = receivedCells (s.port .l).reception ++ queuedCells (s.port .l).tx.toList := rfl
  rw [State.soleCells, repair, ← queuedCells, queuedCells_append, queuedCells_append, classes]
  simp only [received, f0, f1, line, List.count_append]
  omega

/-- Replacing one member of a vector trades what it holds. -/
theorem count_flatMap_set {α : Type} {n : Nat} (f : α → List CellId) (v : Vector α n) (i : Fin n) (x : α) (c : CellId) :
    ((v.set i.val x i.isLt).toList.flatMap f).count c + (f v[i]).count c =
      (v.toList.flatMap f).count c + (f x).count c := by
  have go : ∀ (l : List α) (i : Nat) (h : i < l.length),
      ((l.set i x).flatMap f).count c + (f l[i]).count c = (l.flatMap f).count c + (f x).count c := by
    intro l
    induction l with
    | nil => exact fun i h => absurd h (Nat.not_lt_zero _)
    | cons a l ih =>
      intro i h
      cases i with
      | zero =>
        simp only [List.set_cons_zero, List.flatMap_cons, List.count_append, List.getElem_cons_zero]
        omega
      | succ i =>
        have := ih i (Nat.lt_of_succ_lt_succ h)
        simp only [List.set_cons_succ, List.flatMap_cons, List.count_append, List.getElem_cons_succ]
        omega
  have list := go v.toList i.val (by simp)
  rw [Vector.toList_set]
  simpa using list

theorem State.count_setHeld (s : State) (r : Fin 8) (x : Option Held) (c : CellId) :
    (s.setHeld r x).soleCells.count c + (copyCells (s.held r)).count c = s.soleCells.count c + (copyCells x).count c := by
  have slot := count_flatMap_set copyCells s.repair r x c
  simp only [State.count_soleCells, State.port_setHeld, State.setHeld_free, State.setHeld_repair, State.setHeld_lane,
    State.setHeld_classes, State.setHeld_agent, State.held] at slot ⊢
  omega

theorem State.count_setPort (s : State) (p : Port) (x : PortState) (c : CellId) :
    (s.setPort p x).soleCells.count c + (portCells p (s.port p)).count c = s.soleCells.count c + (portCells p x).count c := by
  have same : ∀ q, q ≠ p → (s.setPort p x).port q = s.port q := fun q => s.port_setPort_other x
  have own := s.port_setPort_self p x
  simp only [State.count_soleCells, State.setPort_free, State.setPort_repair, State.setPort_lane, State.setPort_classes,
    State.setPort_agent]
  cases p with
  | f0 => rw [own, same .f1 (by decide), same .l (by decide)]; omega
  | f1 => rw [own, same .f0 (by decide), same .l (by decide)]; omega
  | l => rw [own, same .f0 (by decide), same .f1 (by decide)]; omega

/-- A queue of L replaced trades the cells of its frames. -/
theorem State.count_setQueue (s : State) {q : QueueId} (line : q.isLine = true) (x : List Queued) (c : CellId) :
    (s.setQueue q x).soleCells.count c + (queuedCells (s.queue q)).count c =
      s.soleCells.count c + (queuedCells x).count c := by
  simp only [State.count_soleCells, State.port_setQueue, State.setQueue_free, State.setQueue_repair, State.setQueue_agent]
  cases q with
  | lane =>
    simp only [State.setQueue_lane_lane, State.setQueue_lane_classes, State.queue]
    omega
  | cls k =>
    have queue := count_flatMap_set queuedCells s.classes k x c
    simp only [State.setQueue_cls_lane, State.setQueue_cls_classes, State.queue]
    omega
  | command p => exact absurd line Bool.false_ne_true

theorem State.count_setAgent (s : State) (a : Agent) (c : CellId) :
    (s.setAgent a).soleCells.count c + (cellsOf s.agent.requests).count c =
      s.soleCells.count c + (cellsOf a.requests).count c := by
  simp only [State.count_soleCells, State.port_setAgent, State.setAgent_free, State.setAgent_repair, State.setAgent_lane,
    State.setAgent_classes, State.setAgent_agent]
  omega

/-! ### Cells gained -/

/-- From `s` to `t` the part accounts for the cells `l` besides, free or with one holder; the field ports hold what they held. A
frame in hand whose cells are gained has found its place. -/
structure Gains (l : List CellId) (s t : State) : Prop where
  sole : ∀ c, t.soleCells.count c = l.count c + s.soleCells.count c
  field : t.fieldFrames = s.fieldFrames

/-- The cells accounted for are the same. -/
abbrev KeepsCells (s t : State) : Prop := Gains [] s t

theorem KeepsCells.refl (s : State) : KeepsCells s s := ⟨fun _ => (Nat.zero_add _).symm, rfl⟩

theorem Gains.append (a : Gains l s t) (b : Gains m t u) : Gains (l ++ m) s u where
  sole c := by
    have := a.sole c
    have := b.sole c
    rw [List.count_append]
    omega
  field := b.field.trans a.field

theorem Gains.trans (a : KeepsCells s t) (b : Gains l t u) : Gains l s u := Gains.append a b

theorem Gains.keeps (a : Gains l s t) (b : KeepsCells t u) : Gains l s u := List.append_nil l ▸ a.append b

/-- What is put back was only in hand: from the state `t` without the cells `l`, to `s` and to `u`. -/
theorem Gains.putBack (a : Gains l t s) (b : Gains (m ++ l) t u) : Gains m s u where
  sole c := by
    have := a.sole c
    have := b.sole c
    rw [List.count_append] at this
    omega
  field := b.field.trans a.field.symm

theorem Gains.restore (a : Gains l t s) (b : Gains l t u) : KeepsCells s u := a.putBack (m := []) b

theorem Gains.perm (a : Gains l s t) (h : l.Perm m) : Gains m s t := ⟨fun c => by rw [a.sole c, h.count_eq], a.field⟩

theorem KeepsCells.foldl {α : Type} {f : State → α → State} (h : ∀ s a, KeepsCells s (f s a)) (l : List α) (s : State) :
    KeepsCells s (l.foldl f s) :=
  List.foldlRecOn (motive := KeepsCells s) l f (.refl s) fun _ hu a _ => hu.trans (h _ a)

/-- What of the part can hold a cell. -/
def State.holders (s : State) :=
  (s.free, s.repair, s.lane, s.classes, s.command, s.agent.requests, (s.ports.f0.reception, s.ports.f0.tx),
    (s.ports.f1.reception, s.ports.f1.tx), (s.ports.l.reception, s.ports.l.tx))

/-- An update of anything else keeps the cells. -/
theorem KeepsCells.of_holders (h : t.holders = s.holders) : KeepsCells s t := by
  simp only [State.holders, Prod.mk.injEq] at h
  obtain ⟨free, repair, lane, classes, command, requests, ⟨r0, t0⟩, ⟨r1, t1⟩, rl, tl⟩ := h
  refine ⟨fun c => ?_, funext fun p => ?_⟩
  · simp only [State.count_soleCells, portCells, State.port, PerPort.get, free, repair, lane, classes, requests, r0, r1, rl, t0,
      t1, tl, List.count_nil, Nat.zero_add]
  · cases p <;> simp only [State.fieldFrames, portOf, State.port, PerPort.get, PerField.get, command, t0, t1]

/-! ### The pool (R101 to R103) -/

/-- The free list replaced trades its cells. -/
theorem State.count_setFree (s : State) (fr : List CellId) (c : CellId) :
    (State.soleCells { s with free := fr }).count c + s.free.count c = s.soleCells.count c + fr.count c := by
  have apart : ∀ v : State, ∃ held, v.soleCells = v.free ++ held ∧ State.soleCells { v with free := fr } = fr ++ held :=
    fun v => ⟨_, rfl, rfl⟩
  obtain ⟨held, before, after⟩ := apart s
  rw [before, after, List.count_append, List.count_append]
  omega

theorem State.returnCells_gains (s : State) (l : List CellId) : Gains l s (s.returnCells l) where
  sole c := by
    have free := s.count_setFree (s.free ++ l) c
    rw [List.count_append] at free
    show (State.soleCells { s with free := s.free ++ l }).count c = _
    omega
  field := rfl

theorem State.release_gains (s : State) (f : Frame) : Gains f.cells s (s.release f) := s.returnCells_gains _

/-- Granted cells are in hand (R101). -/
theorem State.grant_gains {n keep : Nat} {cells : List CellId} (h : s.grant n keep = some (cells, t)) : Gains cells t s := by
  obtain ⟨-, rfl, rfl⟩ := State.grant_spec h
  refine ⟨fun c => ?_, rfl⟩
  have free := s.count_setFree (s.free.drop n) c
  have whole := congrArg (List.count c) (s.free.take_append_drop n)
  rw [List.count_append] at whole
  omega

theorem State.grantReceiver_gains {p : Port} {cells : List CellId} (h : s.grantReceiver p = some (cells, t)) :
    Gains cells t s := by
  obtain ⟨_, h, _⟩ := State.grantReceiver_spec h
  exact State.grant_gains h

/-! ### Receptions, repair slots, the queues of L and the request queue -/

/-- A port's update that leaves its reception and its transmission alone. -/
theorem State.setPort_keepsCells (s : State) (p : Port) {x : PortState} (reception : x.reception = (s.port p).reception)
    (tx : x.tx = (s.port p).tx) : KeepsCells s (s.setPort p x) := by
  refine .of_holders ?_
  cases p <;> simp only [State.port, PerPort.get] at reception tx <;>
    simp only [State.holders, State.setPort, PerPort.set, reception, tx]

theorem State.fieldFrames_setPort (s : State) {p : Port} {x : PortState} (h : x.tx = (s.port p).tx ∨ p = .l) :
    (s.setPort p x).fieldFrames = s.fieldFrames := by
  funext q
  by_cases hq : portOf q = p
  · subst hq
    have tx : x.tx = (s.port (portOf q)).tx := h.resolve_right (by cases q <;> decide)
    rw [State.fieldFrames, State.port_setPort_self, tx]
    rfl
  · rw [State.fieldFrames, State.port_setPort_other _ _ hq]
    rfl

/-- A port that takes cells. -/
theorem State.setPort_gains (s : State) {p : Port} {x : PortState} (field : x.tx = (s.port p).tx ∨ p = .l)
    (cells : (portCells p x).Perm (l ++ portCells p (s.port p))) : Gains l s (s.setPort p x) where
  sole c := by
    have port := s.count_setPort p x c
    rw [cells.count_eq, List.count_append] at port
    omega
  field := s.fieldFrames_setPort field

/-- A port that lets cells go: they are in hand. -/
theorem State.setPort_loses (s : State) {p : Port} {x : PortState} (field : x.tx = (s.port p).tx ∨ p = .l)
    (cells : (portCells p (s.port p)).Perm (l ++ portCells p x)) : Gains l (s.setPort p x) s where
  sole c := by
    have port := s.count_setPort p x c
    rw [cells.count_eq, List.count_append] at port
    omega
  field := (s.fieldFrames_setPort field).symm

/-- A reception that ends: its cells are in hand (R91). -/
theorem State.endReception_gains {p : Port} {r : Reception} (h : (s.port p).reception = some r) :
    Gains r.cells (s.setReception p none) s := by
  refine s.setPort_loses (.inl rfl) ?_
  simp only [portCells, h, receivedCells, List.nil_append]
  exact .refl _

/-- A reception begins in cells from hand (R90). -/
theorem State.newReception_gains {p : Port} (h : (s.port p).reception = none) (r : Reception) :
    Gains r.cells s (s.setReception p (some r)) := by
  refine s.setPort_gains (.inl rfl) ?_
  simp only [portCells, h, receivedCells, List.nil_append]
  exact .refl _

/-- A reception that goes on takes the cells its byte brought (R90). -/
theorem State.storeByte_gains {p : Port} {r : Reception} (h : (s.port p).reception = some r) (b : Byte)
    (cells : List CellId) : Gains cells s (s.setReception p (some (storeByte r b cells))) := by
  refine s.setPort_gains (.inl rfl) ?_
  simp only [portCells, h, receivedCells, storeByte]
  rw [← List.append_assoc]
  exact List.perm_append_comm.append_right _

/-- A transmission on L that ends: its frame is in hand (R96, R97). -/
theorem State.closeTx_gains {x : Queued} (h : (s.port .l).tx = some x) (e : TxEnd) :
    Gains x.frame.cells (s.closeTx .l e) s := by
  refine s.setPort_loses (.inr rfl) ?_
  simp only [portCells, h, if_true, Option.toList_some, Option.toList_none, queuedCells_cons, queuedCells_nil,
    List.append_nil]
  exact List.perm_append_comm

/-- A frame from hand is in transmission on the idle L (R96). -/
theorem State.setTx_gains (h : (s.port .l).tx = none) (x : Queued) : Gains x.frame.cells s (s.setTx .l (some x)) := by
  refine s.setPort_gains (.inr rfl) ?_
  simp only [portCells, h, if_true, Option.toList_some, Option.toList_none, queuedCells_cons, queuedCells_nil,
    List.append_nil]
  exact List.perm_append_comm

/-- A repair slot is freed: its frame is in hand (R44). -/
theorem State.freeHeld_gains {r : Fin 8} {x : Held} (h : s.held r = some x) :
    Gains x.frame.cells (s.setHeld r none) s where
  sole c := by
    have slot := s.count_setHeld r none c
    rw [h] at slot
    simp only [copyCells, Option.toList_some, Option.toList_none, List.map_cons, List.map_nil, cellsOf_cons, cellsOf_nil,
      List.append_nil, List.count_nil] at slot
    omega
  field := rfl

/-- A FREE repair slot takes a frame from hand (R45). -/
theorem State.hold_gains {r : Fin 8} (h : s.held r = none) (x : Held) :
    Gains x.frame.cells s (s.setHeld r (some x)) where
  sole c := by
    have slot := s.count_setHeld r (some x) c
    rw [h] at slot
    simp only [copyCells, Option.toList_some, Option.toList_none, List.map_cons, List.map_nil, cellsOf_cons, cellsOf_nil,
      List.append_nil, List.count_nil] at slot
    omega
  field := rfl

section
variable {q : QueueId} (line : q.isLine = true)
include line

theorem State.fieldFrames_setQueue (s : State) (x : List Queued) : (s.setQueue q x).fieldFrames = s.fieldFrames := by
  cases q with
  | lane | cls c => rfl
  | command p => exact absurd line Bool.false_ne_true

/-- A queue of L takes a frame from hand (R105). -/
theorem State.enqueue_gains (s : State) (x : Queued) : Gains x.frame.cells s (s.enqueue q x) where
  sole c := by
    have queue := s.count_setQueue line (s.queue q ++ [x]) c
    rw [queuedCells_append, List.count_append, queuedCells_cons, queuedCells_nil, List.append_nil] at queue
    rw [State.enqueue]
    omega
  field := s.fieldFrames_setQueue line _

/-- Frames leave a queue of L: they are in hand. -/
theorem State.dequeue_gains {front rest : List Queued} (h : s.queue q = front ++ rest) :
    Gains (queuedCells front) (s.setQueue q rest) s where
  sole c := by
    have queue := s.count_setQueue line rest c
    rw [h, queuedCells_append, List.count_append] at queue
    omega
  field := (s.fieldFrames_setQueue line rest).symm

end

/-- A change of the agent that leaves its request queue alone. -/
theorem State.setAgent_keepsCells (s : State) {a : Agent} (h : a.requests = s.agent.requests) :
    KeepsCells s (s.setAgent a) := by
  refine .of_holders ?_
  simp only [State.holders, State.setAgent, h]

/-- The request queue takes a frame from hand (R118). -/
theorem State.queueRequest_gains {a : Agent} {f : Frame} (h : a.requests = s.agent.requests ++ [f]) :
    Gains f.cells s (s.setAgent a) where
  sole c := by
    have agent := s.count_setAgent a c
    rw [h, cellsOf_append, List.count_append, cellsOf_cons, cellsOf_nil, List.append_nil] at agent
    omega
  field := rfl

/-- The oldest request leaves its queue: its frame is in hand (R119). -/
theorem State.nextRequest_gains {a : Agent} {f : Frame} (h : s.agent.requests = f :: a.requests) :
    Gains f.cells (s.setAgent a) s where
  sole c := by
    have agent := s.count_setAgent a c
    rw [h, cellsOf_cons, List.count_append] at agent
    omega
  field := rfl

end Sys2Proof.Machine
end

section
/-! SUPPORT. What the data path does with the cells of its frames (R39 to R104): a frame in hand finds its place, everything else
keeps the cells. -/

namespace Sys2Proof.Machine

variable {s t u : State} {l : List CellId}

/-! ### Updates that touch no cell -/

theorem State.setSlot_keepsCells (s : State) (k : Fin 64) (x : Option Stream) : KeepsCells s (s.setSlot k x) :=
  .of_holders rfl

theorem State.mapStream_keepsCells (s : State) (k : Fin 64) (f : Stream → Stream) : KeepsCells s (s.mapStream k f) :=
  s.setSlot_keepsCells k _

theorem State.mapAllStreams_keepsCells (s : State) (f : Stream → Stream) : KeepsCells s (s.mapAllStreams f) :=
  .of_holders rfl

theorem State.bumpStream_keepsCells (s : State) (k : Fin 64) (c : StreamCtr) : KeepsCells s (s.bumpStream k c) :=
  s.setSlot_keepsCells k _

theorem State.bumpGlobal_keepsCells (s : State) (c : GlobalCtr) : KeepsCells s (s.bumpGlobal c) := .of_holders rfl

theorem State.bumpPort_keepsCells (s : State) (p : Port) (c : PortCtr) : KeepsCells s (s.bumpPort p c) :=
  s.setPort_keepsCells p rfl rfl

theorem State.setLink_keepsCells (s : State) (p : Port) (x : Link) : KeepsCells s (s.setLink p x) :=
  s.setPort_keepsCells p rfl rfl

theorem State.raiseNotice_keepsCells (s : State) (b : NoticeBody) : KeepsCells s (s.raiseNotice b) := by
  obtain ⟨n, l, g, e, _⟩ := s.raiseNotice_spec b
  rw [e]
  exact .of_holders rfl

theorem State.raiseFault_keepsCells (s : State) (f : FaultInfo) : KeepsCells s (s.raiseFault f) := by
  obtain ⟨q, o, n, l, g, e⟩ := s.raiseFault_spec f
  rw [e]
  exact .of_holders rfl

theorem State.detect_keepsCells (s : State) (p : Port) : KeepsCells s (s.detect p) := by
  unfold State.detect
  split
  · exact s.setLink_keepsCells p _
  · exact .refl s

/-! ### Paths -/

theorem State.evidence_keepsCells (s : State) (k : Fin 64) (p : FPort) : KeepsCells s (s.evidence k p) := by
  unfold State.evidence
  split
  · exact .refl s
  · dsimp only
    split
    · exact (s.mapStream_keepsCells k _).trans (State.raiseNotice_keepsCells _ _)
    · exact s.mapStream_keepsCells k _

theorem State.pathsLinkLoss_keepsCells (s : State) (p : FPort) : KeepsCells s (s.pathsLinkLoss p) :=
  (s.mapAllStreams_keepsCells _).trans (State.raiseNotice_keepsCells _ _)

theorem State.linkComesUp_keepsCells (s : State) (p : Port) : KeepsCells s (s.linkComesUp p) := by
  have paths : ∀ q, KeepsCells s ((s.setLink p (.up [])).pathsLinkUp q) := fun q =>
    ((s.setLink_keepsCells p _).trans (State.mapAllStreams_keepsCells _ _)).trans (State.raiseNotice_keepsCells _ _)
  cases p with
  | f0 => exact paths .f0
  | f1 => exact paths .f1
  | l => exact s.setLink_keepsCells .l _

/-! ### Resolutions and discards (R57 to R73) -/

theorem State.enqueueClass_gains (s : State) (k : Fin 64) (c : Fin 4) (b : List Byte) (l : List CellId) :
    Gains l s (s.enqueueClass k c ⟨b, l⟩) := by
  unfold State.enqueueClass
  split
  · exact (s.enqueue_gains (q := .cls c) rfl ⟨⟨b, l⟩, .data⟩).keeps (State.bumpStream_keepsCells _ _ _)
  · exact ((s.release_gains ⟨b, l⟩).keeps (State.bumpStream_keepsCells _ _ _)).keeps (State.bumpGlobal_keepsCells _ _)

theorem State.forward_gains (s : State) (x : Subject) (f : Frame) (n : Nat) (a b : Bool) :
    Gains f.cells s (s.forward x f n a b) := by
  have dropped := fun c => (s.release_gains f).keeps (State.bumpStream_keepsCells _ x.slot c)
  unfold State.forward
  split
  · exact s.release_gains f
  · next st _ =>
    split
    · dsimp only
      split
      · refine (s.mapStream_keepsCells x.slot fun v => { v with credits := (policed st).2 }).trans ?_
        exact State.enqueueClass_gains _ x.slot _ _ f.cells
      · exact dropped _
    · exact dropped _

/-- Steps 2 to 6 place every cell of the frame: those a trim cuts off return, the others go on (R59, R104). -/
theorem State.settleFrame_gains (s : State) (x : Subject) (cfg : StreamConfig) :
    Gains x.frame.cells s (s.settleFrame x cfg) := by
  unfold State.settleFrame
  split
  · exact s.forward_gains _ _ _ _ _
  · exact ((s.release_gains _).keeps (State.bumpStream_keepsCells _ _ _)).keeps (State.raiseFault_keepsCells _ _)
  · next j _ =>
    have trimmed := (s.returnCells_gains (trimmedCells x.frame (sizeBytes cfg.size) j)).keeps
      (State.bumpStream_keepsCells _ x.slot .trimmed)
    refine (trimmed.append (State.forward_gains _ x (trimFrame x.frame (sizeBytes cfg.size) j) j true false)).perm ?_
    exact List.perm_append_comm.trans (.of_eq (List.take_append_drop _ _))
  · exact (s.bumpStream_keepsCells _ _).trans (State.forward_gains _ _ _ _ _ _)

theorem State.resolve_gains (s : State) (x : Subject) : Gains x.frame.cells s (s.resolve x) := by
  unfold State.resolve
  split
  · exact s.release_gains _
  · exact (s.mapStream_keepsCells _ _).trans (State.settleFrame_gains _ _ _)

theorem State.resolveHeld_keepsCells (s : State) (r : Fin 8) (e : Bool) : KeepsCells s (s.resolveHeld r e) := by
  unfold State.resolveHeld
  split
  · exact .refl s
  · next x hr => exact (State.freeHeld_gains hr).restore (State.resolve_gains _ (heldSubject x _))

theorem State.discardHeld_keepsCells (s : State) (r : Fin 8) : KeepsCells s (s.discardHeld r) := by
  unfold State.discardHeld
  split
  · exact .refl s
  · next x hr =>
    exact (State.freeHeld_gains hr).restore ((State.release_gains _ x.frame).keeps (State.bumpStream_keepsCells _ _ _))

theorem State.discardStream_keepsCells (s : State) (k : Fin 64) : KeepsCells s (s.discardStream k) := by
  refine KeepsCells.foldl (fun s r => ?_) _ _
  split
  · exact s.discardHeld_keepsCells r
  · exact .refl s

theorem State.forceResolve_keepsCells (s : State) (p : FPort) : KeepsCells s (s.forceResolve p) := by
  refine KeepsCells.foldl (fun s r => ?_) _ _
  split
  · exact s.resolveHeld_keepsCells r _
  · exact .refl s

/-! ### Copies (R26 to R50) -/

theorem State.dropCopy_gains (s : State) (c : Copy) (ctr : StreamCtr) : Gains c.frame.cells s (s.dropCopy c ctr) :=
  (s.release_gains _).keeps (State.bumpStream_keepsCells _ _ _)

theorem State.countChecks_keepsCells (s : State) (c : Copy) : KeepsCells s (s.countChecks c) := by
  unfold State.countChecks
  split
  · exact (s.bumpStream_keepsCells _ _).trans (State.evidence_keepsCells _ _ _)
  · exact s.bumpStream_keepsCells _ _

/-- Of a copy and the held copy of its pair one frame is let go, the other resolved; or the copy is dropped (R47 to R50). -/
theorem State.meetHeld_gains {r : Fin 8} {x : Held} (hr : s.held r = some x) (c : Copy) (cfg : StreamConfig) :
    Gains c.frame.cells s (s.meetHeld r x c cfg) := by
  have freed := State.freeHeld_gains hr
  have released : ∀ f ctr, Gains f.cells (s.setHeld r none) (((s.setHeld r none).release f).bumpStream c.slot ctr) :=
    fun f ctr => (State.release_gains _ f).keeps (State.bumpStream_keepsCells _ _ _)
  unfold State.meetHeld
  split
  · exact s.dropCopy_gains c _
  · split
    · exact ((s.release_gains _).keeps (State.raiseFault_keepsCells _ _)).keeps (State.resolveHeld_keepsCells _ _ _)
    · split
      · exact (freed.restore (released x.frame .replaced)).trans (State.resolve_gains _ c.subject)
      · exact freed.putBack ((released c.frame .merged).append (State.resolve_gains _ (mergedSubject _ x c)))

theorem State.holdOrResolve_gains (s : State) (c : Copy) (st : Stream) : Gains c.frame.cells s (s.holdOrResolve c st) := by
  unfold State.holdOrResolve
  split
  · split
    · next r hr =>
      have free : s.held r = none := Option.isNone_iff_eq_none.1 (List.find?_some (p := fun r => (s.held r).isNone) hr)
      exact State.hold_gains free (heldCopy c st.cfg)
    · exact ((s.bumpGlobal_keepsCells _).trans (State.raiseFault_keepsCells _ _)).trans (State.resolve_gains _ c.subject)
  · exact s.resolve_gains c.subject

theorem State.forceResync_gains (s : State) (c : Copy) (f : Id12) (top : Word16) :
    Gains c.frame.cells s (s.forceResync c f top) :=
  (((((s.mapStream_keepsCells _ _).trans (State.discardStream_keepsCells _ _)).trans
    (State.bumpStream_keepsCells _ _ _)).trans (State.raiseFault_keepsCells _ _)).trans
    (State.raiseNotice_keepsCells _ _)).trans (State.resolve_gains _ c.subject)

theorem State.leapCopy_gains (s : State) (c : Copy) (st : Stream) : Gains c.frame.cells s (s.leapCopy c st) := by
  unfold State.leapCopy
  split
  · dsimp only
    split
    · exact s.forceResync_gains _ _ _
    · exact (s.mapStream_keepsCells _ _).trans (State.dropCopy_gains _ _ _)
  · exact s.dropCopy_gains _ _

theorem State.classifyCopy_gains (s : State) (c : Copy) (st : Stream) : Gains c.frame.cells s (s.classifyCopy c st) := by
  unfold State.classifyCopy
  split
  · split
    · exact s.resolve_gains c.subject
    · exact s.holdOrResolve_gains c st
  · exact (s.release_gains _).keeps (State.mapStream_keepsCells _ _ _)
  · exact s.dropCopy_gains _ _
  · exact s.leapCopy_gains c st

theorem State.routeCopy_gains (s : State) (c : Copy) (st : Stream) : Gains c.frame.cells s (s.routeCopy c st) := by
  unfold State.routeCopy
  split
  · split
    · next hr => exact State.meetHeld_gains hr c _
    · exact s.classifyCopy_gains c st
  · exact s.classifyCopy_gains c st

theorem State.dataCopy_gains (s : State) (p : FPort) (f : Frame) : Gains f.cells s (s.dataCopy p f) := by
  unfold State.dataCopy
  split
  · exact ((s.release_gains f).keeps (State.bumpGlobal_keepsCells _ _)).keeps (State.raiseFault_keepsCells _ _)
  · split
    · exact s.release_gains f
    · split
      · exact (s.release_gains f).keeps (State.bumpStream_keepsCells _ _ _)
      · unfold State.activeCopy
        split
        · exact (s.countChecks_keepsCells _).trans (State.routeCopy_gains _ ⟨p, _, frameSeq f.bytes, _, f⟩ _)
        · exact ((s.release_gains f).keeps (State.bumpStream_keepsCells _ _ _)).keeps (State.raiseFault_keepsCells _ _)

/-! ### Received frames that stay with one holder (R92 to R94) -/

theorem State.fieldControl_gains (s : State) (p : FPort) (f : Frame) : Gains f.cells s (s.fieldControl p f) :=
  ((s.release_gains f).keeps (State.bumpGlobal_keepsCells _ _)).keeps (State.raiseFault_keepsCells _ _)

theorem State.passThrough_gains (s : State) (f : Frame) : Gains f.cells s (s.passThrough f) := by
  unfold State.passThrough
  split
  · exact s.enqueue_gains (q := .lane) rfl ⟨f, .passThrough⟩
  · exact (s.release_gains f).keeps (State.bumpGlobal_keepsCells _ _)

theorem State.lineData_gains (s : State) (f : Frame) : Gains f.cells s (s.lineData f) :=
  (s.release_gains f).keeps (State.bumpGlobal_keepsCells _ _)

theorem State.headerError_gains (s : State) (p : Port) (f : Frame) : Gains f.cells s (s.headerError p f) :=
  ((s.release_gains f).keeps (State.bumpPort_keepsCells _ _ _)).keeps (State.raiseFault_keepsCells _ _)

theorem State.dispatchField_gains (s : State) (p : FPort) (f : Frame) (k : Kind) :
    Gains f.cells s (s.dispatchField p f k) := by
  cases k with
  | data => exact s.dataCopy_gains p f
  | command | mgmtReq => exact s.fieldControl_gains p f
  | mgmtRsp | mgmtNotice => exact s.passThrough_gains f

/-! ### Receptions (R90, R91) -/

theorem State.abandon_keepsCells (s : State) (p : Port) (c : PortCtr) : KeepsCells s (s.abandon p c) := by
  unfold State.abandon
  split
  · next r hr =>
    exact (State.endReception_gains hr).restore ((State.returnCells_gains _ r.cells).keeps (State.bumpPort_keepsCells _ _ _))
  · exact .refl s

theorem State.abandonMalformed_keepsCells (s : State) (p : Port) : KeepsCells s (s.abandonMalformed p) := by
  unfold State.abandonMalformed
  split
  · exact (s.abandon_keepsCells p _).trans (State.raiseFault_keepsCells _ _)
  · exact .refl s

theorem State.poolEmpty_keepsCells (s : State) (p : Port) : KeepsCells s (s.poolEmpty p) :=
  (s.bumpPort_keepsCells p _).trans (State.raiseFault_keepsCells _ _)

theorem State.abandonPoolEmpty_keepsCells (s : State) (p : Port) : KeepsCells s (s.abandonPoolEmpty p) := by
  unfold State.abandonPoolEmpty
  split
  · next r hr =>
    exact (State.endReception_gains hr).restore ((State.returnCells_gains _ r.cells).keeps (State.poolEmpty_keepsCells _ p))
  · exact .refl s

theorem State.breakRun_keepsCells (s : State) (p : Port) : KeepsCells s (s.breakRun p) := by
  unfold State.breakRun
  split
  · exact s.setLink_keepsCells p _
  · exact .refl s
  · exact .refl s

theorem State.port_grantReceiver {p : Port} {cells : List CellId} (h : s.grantReceiver p = some (cells, t)) (q : Port) :
    t.port q = s.port q := by
  obtain ⟨_, h, _⟩ := State.grantReceiver_spec h
  obtain ⟨-, -, rfl⟩ := State.grant_spec h
  rfl

/-- A start marker: an old reception is abandoned, so that a new one begins without cells but its own (R91). -/
theorem State.startMarker_keepsCells (s : State) (p : Port) : KeepsCells s (s.startMarker p) := by
  have idle : ((s.abandonMalformed p).port p).reception = none := by
    unfold State.abandonMalformed
    split
    · rw [(State.raiseFault_resolves _ _).port, State.abandon_eq, State.port_returnCells, State.port_setPort_self]
    · next h => exact h
  refine (s.abandonMalformed_keepsCells p).trans (u := s.startMarker p) ?_
  unfold State.startMarker State.beginReception
  split
  · next cells t hg =>
    have granted : (t.port p).reception = none := State.port_grantReceiver hg p ▸ idle
    exact (State.grantReceiver_gains hg).restore (State.newReception_gains granted ⟨[], cells⟩)
  · exact State.poolEmpty_keepsCells _ p

theorem State.dataByte_keepsCells (s : State) (p : Port) (b : Byte) : KeepsCells s (s.dataByte p b) := by
  unfold State.dataByte
  split
  · exact .refl s
  · next r hr =>
    split
    · exact s.abandonMalformed_keepsCells p
    · split
      · split
        · next cells t hg =>
          have granted : (t.port p).reception = some r := State.port_grantReceiver hg p ▸ hr
          exact (State.grantReceiver_gains hg).restore (State.storeByte_gains granted b cells)
        · exact s.abandonPoolEmpty_keepsCells p
      · exact State.storeByte_gains hr b []

/-! ### Links and timers -/

theorem State.alignmentWord_keepsCells (s : State) (p : Port) (a : Bool) : KeepsCells s (s.alignmentWord p a) := by
  unfold State.alignmentWord
  split
  · exact .refl s
  · dsimp only
    split
    · exact s.linkComesUp_keepsCells p
    · exact s.setLink_keepsCells p _
  · exact s.abandonMalformed_keepsCells p

theorem State.alignmentTimeout_keepsCells (s : State) (p : Port) : KeepsCells s (s.alignmentTimeout p) := by
  unfold State.alignmentTimeout
  split
  · exact (s.setLink_keepsCells p _).trans (State.detect_keepsCells _ p)
  · exact .refl s
  · exact .refl s

theorem State.pathTimeout_keepsCells (s : State) (k : Fin 64) (p : FPort) : KeepsCells s (s.pathTimeout k p) := by
  unfold State.pathTimeout
  split
  · exact (s.mapStream_keepsCells k _).trans (State.raiseNotice_keepsCells _ _)
  · exact .refl s

theorem State.intervalTimeout_keepsCells (s : State) (k : Fin 64) : KeepsCells s (s.intervalTimeout k) := by
  unfold State.intervalTimeout
  split
  · exact s.mapStream_keepsCells k _
  · exact .refl s

/-! ### The notice feed and the transmitters (R96, R109) -/

/-- An offered notice's frame takes the cell it was granted into the lane (R109, R162). -/
theorem State.buildNotice_gains (s : State) (n : NoticeRecord) (rest : List NoticeRecord) (cells : List CellId) :
    Gains cells s (s.buildNotice n rest cells) :=
  (s.enqueue_gains (q := .lane) rfl ⟨⟨s.noticeFrame n, cells⟩, .notice s.noticesLost⟩).keeps (.of_holders rfl)

theorem offerNotices_keepsCells (l : List NoticeRecord) (s : State) : KeepsCells s (offerNotices l s) := by
  induction l generalizing s with
  | nil => exact .refl s
  | cons n rest ih =>
    unfold offerNotices
    split
    · split
      · next cells t hg => exact ((State.grant_gains hg).restore (State.buildNotice_gains t n rest cells)).trans (ih _)
      · exact .refl s
    · exact .refl s

theorem State.feedNotices_keepsCells (s : State) : KeepsCells s s.feedNotices := offerNotices_keepsCells _ s

/-- The queue that L is served from is one of its own. -/
theorem State.firstQueue_mem {l : List QueueId} {q : QueueId} (h : s.firstQueue l = some q) : q ∈ l := by
  induction l with
  | nil => cases h
  | cons r l ih =>
    unfold State.firstQueue at h
    split at h
    · exact List.mem_cons_of_mem _ (ih h)
    · exact Option.some.inj h ▸ List.mem_cons_self

/-- A field port's frame keeps its cells as it goes from the command queue into transmission (R96, R110). -/
theorem State.sendHead_field {p : FPort} (idle : (s.port (portOf p)).tx = none) :
    KeepsCells s (s.sendHead (portOf p) (.command p)) := by
  unfold State.sendHead
  split
  · exact .refl s
  · next x rest head =>
    have head : s.command.get p = x :: rest := head
    refine ⟨fun c => ?_, funext fun q => ?_⟩
    · have port := State.count_setPort (s.setQueue (.command p) rest) (portOf p)
        { (s.setQueue (.command p) rest).port (portOf p) with tx := some x } c
      have same : (s.setQueue (.command p) rest).soleCells = s.soleCells := rfl
      rw [same] at port
      have held : ∀ y : PortState, portCells (portOf p) y = receivedCells y.reception := fun y => by
        cases p <;> exact List.append_nil _
      rw [held, held] at port
      rw [List.count_nil]
      exact (Nat.add_right_cancel port).trans (Nat.zero_add _).symm
    · rcases otherPort_cases p q with rfl | rfl
      · simp only [State.fieldFrames, State.setTx_eq, State.port_setPort_self, idle]
        show ((some x).toList ++ (s.command.set q rest).get q).map (fun x => x.frame) = _
        rw [PerField.get_set_self, head]
        rfl
      · simp only [State.fieldFrames, State.setTx_eq, State.port_setPort_other _ _ (portOf_otherPort_ne p),
          State.port_setQueue]
        show (_ ++ (s.command.set p rest).get (otherPort p)).map (fun x => x.frame) = _
        rw [PerField.get_set_other _ _ (otherPort_ne p)]

theorem State.startTx_keepsCells (s : State) (p : Port) : KeepsCells s (s.startTx p) := by
  unfold State.startTx
  split
  · next h =>
    have idle : (s.port p).tx = none := Option.isNone_iff_eq_none.1 (Bool.and_eq_true_iff.1 h).1
    split
    · next q source =>
      by_cases hp : p = .l
      · subst hp
        have line := lineQueues_isLine q (State.firstQueue_mem source)
        unfold State.sendHead
        split
        · exact .refl s
        · next x rest head =>
          have out := State.dequeue_gains line (front := [x]) head
          rw [queuedCells_cons, queuedCells_nil, List.append_nil] at out
          refine out.restore (State.setTx_gains ?_ x)
          rw [State.port_setQueue]
          exact idle
      · obtain ⟨fp, rfl, rfl⟩ := State.txSource_field hp source
        exact State.sendHead_field idle
    · exact .refl s
  · exact .refl s

theorem State.settle_keepsCells (s : State) : KeepsCells s s.settle :=
  State.settle_induct (P := KeepsCells s) (.refl s) (fun u hu => hu.trans u.feedNotices_keepsCells)
    fun u p hu => hu.trans (u.startTx_keepsCells p)

/-! ### L's frames that are let go (R97, R100, R111) -/

/-- A transmission on L that ends gives its cells back (R96). -/
theorem State.closeTx_release_keepsCells {x : Queued} (h : (s.port .l).tx = some x) (e : TxEnd) :
    KeepsCells s ((s.closeTx .l e).release x.frame) :=
  (State.closeTx_gains h e).restore (State.release_gains _ x.frame)

theorem State.flush_keepsCells {q : QueueId} (line : q.isLine = true) (s : State) : KeepsCells s (s.flush q) := by
  have one : ∀ (v : State) (x : Queued), Gains x.frame.cells v (State.flushOne q v x) := fun v x => by
    have released : Gains x.frame.cells v (v.releaseFrom q x.frame) := by
      cases q with
      | lane | cls c => exact v.release_gains _
      | command p => exact absurd line Bool.false_ne_true
    exact (released.keeps (State.bumpGlobal_keepsCells _ (.flushed q))).keeps (u := State.flushOne q v x) (.of_holders rfl)
  have all : ∀ (l : List Queued) (v : State), Gains (queuedCells l) v (l.foldl (State.flushOne q) v) := by
    intro l
    induction l with
    | nil => exact fun v => KeepsCells.refl v
    | cons x l ih => exact fun v => (one v x).append (ih _)
  exact (State.dequeue_gains line (s.queue q).append_nil.symm).restore (all _ _)

theorem State.dropLine_keepsCells (s : State) : KeepsCells s s.dropLine := by
  have cut : ∀ v : State, KeepsCells v (v.cutTx .l) := fun v => by
    unfold State.cutTx
    split
    · next x h =>
      exact ((State.closeTx_release_keepsCells h .cut).trans (State.bumpPort_keepsCells _ .l .txAborted)).trans
        (KeepsCells.of_holders rfl)
    · exact .refl v
  have flushed : ∀ v : State, KeepsCells v (v.flushEach lineQueues) := fun v =>
    List.foldlRecOn (motive := KeepsCells v) lineQueues State.flush (.refl v) fun _ hu q hq =>
      hu.trans (State.flush_keepsCells (lineQueues_isLine q hq) _)
  rw [State.dropLine_eq]
  exact (((s.setLink_keepsCells .l _).trans (State.abandon_keepsCells _ _ _)).trans (cut _)).trans (flushed _)

end Sys2Proof.Machine
end

section
/-! SUPPORT. The law of the pool across the resets, the management agent and the long operations (R101, R108, R118, R134, R135): a
reset frees every cell, a TRAFFIC reset all but the requests', everything else keeps the cells. -/

namespace Sys2Proof.Machine

variable {s t : State} {l : List CellId}

/-! ### The law with a frame in hand -/

/-- The law of the pool for a state that, with the cells `l` of a frame in hand, accounts for every cell. -/
def State.PoolSoundWith (s : State) (l : List CellId) : Prop := PoolLaw (l ++ s.soleCells) s.fieldFrames

/-- The law depends on the counts of the cells alone. -/
theorem Gains.poolLaw {sole : List CellId} (g : Gains l s t) (h : PoolLaw sole s.fieldFrames)
    (e : ∀ c, sole.count c = l.count c + s.soleCells.count c) : t.PoolSound := by
  refine State.poolSound_iff.2 (h.congr (List.perm_iff_count.2 fun c => ?_) fun p => ?_)
  · rw [g.sole, e]
  · rw [g.field]

theorem State.PoolSound.keeps (h : s.PoolSound) (k : KeepsCells s t) : t.PoolSound :=
  k.poolLaw (State.poolSound_iff.1 h) fun _ => (Nat.zero_add _).symm

/-- A frame in hand finds its place. -/
theorem State.PoolSoundWith.placed (h : s.PoolSoundWith l) (g : Gains l s t) : t.PoolSound :=
  g.poolLaw h fun _ => List.count_append

/-- A frame is taken in hand. -/
theorem State.PoolSound.taken (h : s.PoolSound) (g : Gains l t s) : t.PoolSoundWith l := by
  refine (State.poolSound_iff.1 h).congr (List.perm_iff_count.2 fun c => ?_) fun p => ?_
  · rw [List.count_append, g.sole]
  · rw [g.field]

theorem State.PoolSoundWith.keeps (h : s.PoolSoundWith l) (k : KeepsCells s t) : t.PoolSoundWith l := by
  refine PoolLaw.congr h ((List.perm_iff_count.2 fun c => ?_).append_left l) fun p => ?_
  · rw [k.sole, List.count_nil, Nat.zero_add]
  · rw [k.field]

/-! ### Resets (R134, R168) -/

/-- In the reset state every cell is free (Table 7-4). -/
theorem State.cleared_poolSound (s : State) (ph : Phase) : (s.cleared ph).PoolSound :=
  reset_poolSound.keeps (.of_holders rfl)

theorem State.takeReset_poolSound (s : State) : s.takeReset.PoolSound := by
  obtain ⟨q, sl, g, e, -⟩ := s.takeReset_spec
  rw [e]
  exact (s.cleared_poolSound .loading).keeps (.of_holders rfl)

/-- A cell of a request is in no other place. -/
theorem State.PoolSound.requests_nodup (h : s.PoolSound) : (cellsOf s.agent.requests).Nodup := by
  have part : (cellsOf s.agent.requests).Sublist s.soleCells :=
    (List.sublist_append_right _ _).trans (List.sublist_append_right _ _)
  exact (State.poolSound_iff.1 h).sole_once.sublist part

/-- A TRAFFIC reset frees every cell but those of the queued requests (R134). -/
theorem State.PoolSound.trafficReset (h : s.PoolSound) : s.trafficReset.PoolSound := by
  obtain ⟨sl, rp, n, e, -, empty, -⟩ := s.trafficReset_eq
  have slots : rp = Vector.replicate 8 none := Vector.ext fun i hi => by simpa using empty ⟨i, hi⟩
  have sole : s.trafficReset.soleCells = allCells.filter (fun c => !s.requestCells.contains c) ++ cellsOf s.agent.requests := by
    rw [e, slots]
    rfl
  have field : s.trafficReset.fieldFrames = fun _ => [] := by
    rw [e]
    funext p
    cases p <;> rfl
  refine State.poolSound_iff.2 ?_
  rw [sole, field]
  refine ⟨List.nodup_append'.2 ⟨allCells_nodup.filter _, h.requests_nodup, fun c free held => ?_⟩, fun p => List.nodup_nil,
    fun p c hc => absurd hc List.not_mem_nil, fun p q x hx => absurd hx List.not_mem_nil, fun c => .inl ?_⟩
  · have other := (List.mem_filter.1 free).2
    rw [Bool.not_eq_true', List.contains_eq_mem, decide_eq_false_iff_not] at other
    exact other held
  · by_cases held : c ∈ cellsOf s.agent.requests
    · exact List.mem_append_right _ held
    · refine List.mem_append_left _ (List.mem_filter.2 ⟨mem_allCells c, ?_⟩)
      rw [Bool.not_eq_true', List.contains_eq_mem, decide_eq_false_iff_not]
      exact held

/-- The end of the start-up load touches no cell (R168). -/
theorem State.endLoad_keepsCells (s : State) : KeepsCells s s.endLoad := by
  obtain ⟨time, fx, -, -, e⟩ := s.stampLoadFault_spec
  have stamped : KeepsCells s { s.stampLoadFault with phase := .running } := by
    rw [e]
    exact .of_holders rfl
  exact (((stamped.trans (State.mapAllStreams_keepsCells _ _)).trans (State.detect_keepsCells _ .f0)).trans
    (State.detect_keepsCells _ .f1)).trans (State.detect_keepsCells _ .l)

/-! ### Answers (R108) -/

/-- A response takes the cells it was granted into the lane (R108). -/
theorem State.tryPlace_keepsCells {x : Word16} {payload : List Byte} {full : Bool}
    (h : s.tryPlace x payload full = some t) : KeepsCells s t := by
  unfold State.tryPlace at h
  split at h
  · split at h
    · next cells u hg =>
      obtain rfl := Option.some.inj h
      exact (State.grant_gains hg).restore (u.enqueue_gains (q := .lane) rfl ⟨⟨_, cells⟩, _⟩)
    · cases h
  · cases h

theorem State.place_keepsCells (s : State) (x : Word16) (payload : List Byte) : KeepsCells s (s.place x payload) := by
  unfold State.place
  split
  · next h => exact State.tryPlace_keepsCells h
  · exact s.bumpGlobal_keepsCells _

theorem State.cacheResponse_keepsCells (s : State) (m x : Word16) (st : Status) (payload : List Byte) :
    KeepsCells s (s.cacheResponse m x st payload) := by
  unfold State.cacheResponse
  split
  · exact s.setAgent_keepsCells rfl
  · exact .refl s

theorem State.answer_keepsCells (s : State) (m x : Word16) (code : Byte) (st : Status) (results : List Byte) :
    KeepsCells s (s.answer m x code st results) :=
  (s.place_keepsCells _ _).trans (State.cacheResponse_keepsCells _ _ _ _ _)

theorem Reply.answer_keepsCells {r : Reply} (h : KeepsCells s r.state) (m x : Word16) (code : Byte) :
    KeepsCells s (r.answer m x code) := h.trans (State.answer_keepsCells _ _ _ _ _ _)

/-! ### Requests (Table 12-3) -/

theorem State.runOpenSession_keepsCells (s : State) (m : Word16) : KeepsCells s (s.runOpenSession m).state := by
  unfold State.runOpenSession
  split
  · exact s.setAgent_keepsCells rfl
  · split <;> exact .refl s

theorem State.runCloseSession_keepsCells (s : State) (m : Word16) : KeepsCells s (s.runCloseSession m).state := by
  unfold State.runCloseSession
  split
  · exact .of_holders rfl
  · exact .refl s

theorem State.runReadStreamCounters_keepsCells (s : State) (a b : Byte) :
    KeepsCells s (s.runReadStreamCounters a b).state := by
  unfold State.runReadStreamCounters
  dsimp only
  split
  · exact .refl s
  · exact s.mapStream_keepsCells _ _

theorem State.runReadPortCounters_keepsCells (s : State) (a b : Byte) :
    KeepsCells s (s.runReadPortCounters a b).state := by
  unfold State.runReadPortCounters State.clearPage
  split
  · exact .refl s
  · dsimp only
    split <;> exact .of_holders rfl

theorem State.runStageEntry_keepsCells (s : State) (a b c : Byte) (rec : EntryRecord) :
    KeepsCells s (s.runStageEntry a b c rec).state := by
  unfold State.runStageEntry
  dsimp only
  generalize (if c = 1#8 then some (entryFields rec) else none) = fields
  split
  · exact .refl s
  · split
    · exact .refl s
    · split
      · exact .refl s
      · split <;> exact .of_holders rfl

theorem State.runStageGlobals_keepsCells (s : State) (rec : GlobalsRecord) :
    KeepsCells s (s.runStageGlobals rec).state := by
  unfold State.runStageGlobals
  split
  · exact .refl s
  · split <;> exact .of_holders rfl

theorem State.runCommit_keepsCells (s : State) (m : Word16) : KeepsCells s (s.runCommit m).state := by
  unfold State.runCommit
  split <;> exact .of_holders rfl

theorem State.runSaveImage_keepsCells (s : State) (m : Word16) : KeepsCells s (s.runSaveImage m).state := by
  unfold State.runSaveImage
  split <;> exact .of_holders rfl

theorem State.runSealImage_keepsCells (s : State) (m : Word16) : KeepsCells s (s.runSealImage m).state := by
  unfold State.runSealImage
  cases s.imageState <;> exact .of_holders rfl

/-- A FULL reset is answered and waits, or is taken (R135). -/
theorem State.PoolSound.runResetFull (h : s.PoolSound) (m x : Word16) (code : Byte) : (s.runResetFull m x code).PoolSound := by
  unfold State.runResetFull
  split
  · split
    · next placed =>
      exact h.keeps (((State.tryPlace_keepsCells placed).trans (State.cacheResponse_keepsCells _ _ _ _ _)).trans
        (State.setAgent_keepsCells _ rfl))
    · exact s.takeReset_poolSound
  · exact s.takeReset_poolSound

/-- Of all requests only a reset frees cells (R120, R134, R135). -/
theorem State.PoolSound.execute (h : s.PoolSound) (m x : Word16) (r : Request) : (s.execute m x r).PoolSound := by
  have plain := fun code results => h.keeps (s.answer_keepsCells m x code .ok results)
  cases r with
  | identify => exact plain _ _
  | openSession => exact h.keeps (Reply.answer_keepsCells (s.runOpenSession_keepsCells m) _ _ _)
  | closeSession => exact h.keeps (Reply.answer_keepsCells (s.runCloseSession_keepsCells m) _ _ _)
  | readEntry slot => exact plain _ _
  | readStreamCounters a b => exact h.keeps (Reply.answer_keepsCells (s.runReadStreamCounters_keepsCells a b) _ _ _)
  | readPortCounters a b => exact h.keeps (Reply.answer_keepsCells (s.runReadPortCounters_keepsCells a b) _ _ _)
  | readFaults n =>
    have read : KeepsCells s (s.runReadFaults n).state := .of_holders rfl
    exact h.keeps (Reply.answer_keepsCells read _ _ _)
  | stageEntry a b c rec => exact h.keeps (Reply.answer_keepsCells (s.runStageEntry_keepsCells a b c rec) _ _ _)
  | stageGlobals rec => exact h.keeps (Reply.answer_keepsCells (s.runStageGlobals_keepsCells rec) _ _ _)
  | readStaging first => exact plain _ _
  | discardStaging =>
    have emptied : KeepsCells s { s with staging := [] } := .of_holders rfl
    exact h.keeps (emptied.trans (State.answer_keepsCells _ _ _ _ _ _))
  | commit => exact h.keeps (Reply.answer_keepsCells (s.runCommit_keepsCells m) _ _ _)
  | saveImage => exact h.keeps (Reply.answer_keepsCells (s.runSaveImage_keepsCells m) _ _ _)
  | sealImage => exact h.keeps (Reply.answer_keepsCells (s.runSealImage_keepsCells m) _ _ _)
  | resetPart kind =>
    show State.PoolSound (ite _ _ _)
    split
    · exact h.trafficReset.keeps (State.answer_keepsCells _ _ _ _ _ _)
    · exact h.runResetFull _ _ _
  | unknown code => exact h.keeps (s.answer_keepsCells _ _ _ _ _)

/-! ### The take (R118, R119) -/

theorem State.PoolSound.takeRequest (h : s.PoolSound) (m x : Word16) (r : Request) : (s.takeRequest m x r).PoolSound := by
  have begun : (s.beginTurn.touchLease m).PoolSound := by
    rw [State.begun_eq]
    exact h.keeps (.of_holders rfl)
  unfold State.takeRequest State.judge
  split
  · exact begun.keeps (State.place_keepsCells _ _ _)
  · split
    · exact begun.keeps (State.answer_keepsCells _ _ _ _ _ _)
    · exact begun.execute _ _ _

theorem State.PoolSound.takeFrame (h : s.PoolSound) (f : List Byte) : (s.takeFrame f).PoolSound := by
  unfold State.takeFrame
  split
  · exact h.takeRequest _ _ _
  · have begun : KeepsCells s s.beginTurn := s.setAgent_keepsCells rfl
    exact h.keeps (begun.trans (State.place_keepsCells _ _ _))

/-- The oldest request's cells are free before it is judged (R108, R119). -/
theorem State.PoolSound.runAgent (h : s.PoolSound) : s.runAgent.PoolSound := by
  unfold State.runAgent
  split
  · split
    · next f rest oldest =>
      have out : Gains f.cells (s.setAgent { s.agent with requests := rest }) s := State.nextRequest_gains oldest
      exact (h.keeps (out.restore (State.release_gains _ f))).takeFrame f.bytes
    · exact h
  · exact h

theorem State.offerRequest_gains (s : State) (f : Frame) : Gains f.cells s (s.offerRequest f) := by
  unfold State.offerRequest
  split
  · exact State.queueRequest_gains rfl
  · exact (s.release_gains f).keeps (State.bumpGlobal_keepsCells _ _)

theorem State.PoolSoundWith.consumeRequest {f : Frame} (h : s.PoolSoundWith f.cells) : (s.consumeRequest f).PoolSound :=
  (h.placed (s.offerRequest_gains f)).runAgent

/-- A request in a frame of its own: its cells return before the take, or wait with it (R102, R118; log 6). -/
theorem State.PoolSound.requestComes (h : s.PoolSound) {bytes : List Byte} {take : State → State}
    (taken : ∀ v : State, v.PoolSound → (take v).PoolSound) : (s.requestComes bytes take).PoolSound := by
  unfold State.requestComes
  split
  · next cells u hg =>
    have granted := State.grant_gains hg
    split
    · exact taken _ (h.keeps (granted.restore (u.release_gains ⟨bytes, cells⟩)))
    · exact State.PoolSoundWith.consumeRequest (f := ⟨bytes, cells⟩) (h.taken granted)
  · exact h.keeps (s.poolEmpty_keepsCells .l)

theorem State.PoolSound.agentRequest (h : s.PoolSound) (m x : Word16) (r : Request) : (s.agentRequest m x r).PoolSound :=
  h.requestComes fun _ hv => hv.takeRequest m x r

theorem State.PoolSound.endTurn (h : s.PoolSound) : s.endTurn.PoolSound := by
  unfold State.endTurn
  split
  · have idle : KeepsCells s (s.setAgent { s.agent with busy := false }) := s.setAgent_keepsCells rfl
    exact (h.keeps idle).runAgent
  · exact h

theorem State.leaseTimeout_keepsCells (s : State) : KeepsCells s s.leaseTimeout := by
  unfold State.leaseTimeout
  split
  · have ended : KeepsCells s s.endLease := .of_holders rfl
    exact ended.trans (State.raiseNotice_keepsCells _ _)
  · exact .refl s

/-! ### Commits, saves and seals (R145, R171) -/

/-- A record's effect discards held copies at most (R55). -/
theorem State.applyRecord_keepsCells (s : State) (r : Staged) : KeepsCells s (s.applyRecord r) := by
  cases r with
  | globals f => exact .of_holders rfl
  | entry k act f =>
    unfold State.applyRecord
    dsimp only
    split
    · exact (s.discardStream_keepsCells k).trans (State.setSlot_keepsCells _ _ _)
    · exact s.setSlot_keepsCells _ _

theorem State.endCommit_keepsCells (s : State) (l : List Staged) (m : Word16) : KeepsCells s (s.endCommit l m) := by
  have applied := KeepsCells.foldl State.applyRecord_keepsCells l s
  unfold State.endCommit
  dsimp only
  refine Gains.trans ?_ (State.raiseNotice_keepsCells _ _)
  split
  · exact applied.trans (KeepsCells.of_holders rfl)
  · exact .of_holders rfl

theorem State.commitEnds_keepsCells (s : State) : KeepsCells s s.commitEnds := by
  unfold State.commitEnds
  split
  · exact s.endCommit_keepsCells _ _
  all_goals exact .refl s

theorem State.eraseEnds_keepsCells (s : State) : KeepsCells s s.eraseEnds := by
  unfold State.eraseEnds
  split
  · split <;> exact .of_holders rfl
  · exact .refl s

theorem State.writeEnds_keepsCells (s : State) : KeepsCells s s.writeEnds := by
  unfold State.writeEnds
  split
  · split <;> exact .of_holders rfl
  · exact .refl s

theorem State.readBackEnds_keepsCells (s : State) (j : BankJob) (misread : List (Nat × Byte))
    (notice : Bool → ImageState → NoticeBody) : KeepsCells s (s.readBackEnds j misread notice) := by
  obtain ⟨q, o, n, l, g, ls, fx, e⟩ := s.readBackEnds_spec j misread notice
  rw [e]
  exact .of_holders rfl

theorem State.saveEnds_keepsCells (s : State) (misread : List (Nat × Byte)) : KeepsCells s (s.saveEnds misread) := by
  rcases s.saveEnds_cases misread with e | ⟨j, notice, -, -, e⟩
  · rw [e]
    exact .refl s
  · rw [e]
    exact s.readBackEnds_keepsCells j misread notice

theorem State.sealEnds_keepsCells (s : State) (misread : List (Nat × Byte)) : KeepsCells s (s.sealEnds misread) := by
  rcases s.sealEnds_cases misread with e | ⟨j, notice, -, -, e⟩
  · rw [e]
    exact .refl s
  · rw [e]
    exact s.readBackEnds_keepsCells j misread notice

theorem State.tick_keepsCells (s : State) : KeepsCells s s.tick := by
  unfold State.tick
  split <;> exact .of_holders rfl

end Sys2Proof.Machine
end

section
/-! SUPPORT. The law of the pool across the field ports, whose frames may be shared (R95, R98, R103, R110), and O56. -/

namespace Sys2Proof.Machine

variable {s t : State} {p : FPort} {f : Frame} {l : List Frame}

/-! ### A field port lets frames go -/

/-- The law of the pool when field port `p` no longer holds the frames `l`, but has yet to release them (R103). -/
def State.PoolOwing (s : State) (p : FPort) (l : List Frame) : Prop :=
  PoolLaw s.soleCells fun q => (if q = p then l else []) ++ s.fieldFrames q

theorem State.poolOwing_nil : s.PoolOwing p [] ↔ s.PoolSound := by
  have same : (fun q => (if q = p then [] else []) ++ s.fieldFrames q) = s.fieldFrames := by
    simp only [ite_self, List.nil_append]
  rw [State.PoolOwing, State.poolSound_iff, same]

theorem State.PoolOwing.keeps (h : s.PoolOwing p l) (k : KeepsCells s t) : t.PoolOwing p l := by
  refine PoolLaw.congr h (List.perm_iff_count.2 fun c => ?_) fun q => ?_
  · rw [k.sole, List.count_nil, Nat.zero_add]
  · rw [k.field]

theorem State.portHolds_iff : s.portHolds p f = true ↔ ∃ x ∈ s.fieldFrames p, x.cells = f.cells := by
  unfold State.portHolds State.fieldFrames
  cases (s.port (portOf p)).tx <;> simp [or_comm]

/-- A release: the cells stay with the other field port, or return (R103). -/
theorem State.PoolOwing.releaseShared (h : s.PoolOwing p (f :: l)) : (s.releaseShared p f).PoolOwing p l := by
  have other : ∀ l : List Frame, (if otherPort p = p then l else []) ++ s.fieldFrames (otherPort p) =
      s.fieldFrames (otherPort p) := fun l => by rw [if_neg (otherPort_ne p), List.nil_append]
  have go : LetGo p f (fun q => (if q = p then f :: l else []) ++ s.fieldFrames q)
      (fun q => (if q = p then l else []) ++ s.fieldFrames q) := by
    refine ⟨?_, (other _).trans (other _).symm⟩
    simp only [if_true, List.cons_append]
  unfold State.releaseShared
  split
  · next held => exact PoolLaw.letGo_shared h go (by rw [other]; exact State.portHolds_iff.1 held)
  · next last =>
    refine (PoolLaw.letGo_last h go ?_).congr (List.perm_iff_count.2 fun c => ?_) fun q => .refl _
    · rw [other]
      exact fun x hx e => last (State.portHolds_iff.2 ⟨x, hx, e⟩)
    · rw [(s.release_gains f).sole, List.count_append]

/-- A field port alone has no cell but its reception's. -/
theorem portCells_field (p : FPort) (x : PortState) : portCells (portOf p) x = receivedCells x.reception := by
  cases p <;> exact List.append_nil _

/-- A transmission on a field port that ends leaves its frame to be released (R96, R97). -/
theorem State.PoolSound.closeTx (h : s.PoolSound) {x : Queued} (hx : (s.port (portOf p)).tx = some x) (e : TxEnd) :
    (s.closeTx (portOf p) e).PoolOwing p [x.frame] := by
  refine (State.poolSound_iff.1 h).congr (List.perm_iff_count.2 fun c => ?_) fun q => .of_eq ?_
  · have port := s.count_setPort (portOf p) { s.port (portOf p) with tx := none, lastEnd := some e } c
    rw [portCells_field, portCells_field] at port
    exact Nat.add_right_cancel port
  · rcases otherPort_cases p q with rfl | rfl
    · simp only [if_true, State.fieldFrames, State.closeTx_eq, State.port_setPort_self, hx]
      rfl
    · simp only [if_neg (otherPort_ne p), State.fieldFrames, State.closeTx_eq,
        State.port_setPort_other _ _ (portOf_otherPort_ne p)]
      rfl

/-- A command queue that is emptied leaves its frames to be released (R111). -/
theorem State.PoolSound.emptyCommand (h : s.PoolSound) (p : FPort) :
    (s.setQueue (.command p) []).PoolOwing p ((s.command.get p).map (fun x => x.frame)) := by
  refine (State.poolSound_iff.1 h).congr (.of_eq rfl) fun q => ?_
  rcases otherPort_cases p q with rfl | rfl
  · simp only [if_true, State.fieldFrames, State.port_setQueue, State.setQueue_command_command, PerField.get_set_self,
      List.append_nil, List.map_append]
    exact List.perm_append_comm
  · simp only [if_neg (otherPort_ne p), State.fieldFrames, State.port_setQueue, State.setQueue_command_command,
      PerField.get_set_other _ _ (otherPort_ne p)]
    exact .refl _

theorem State.PoolSound.flushCommand (h : s.PoolSound) (p : FPort) : (s.flush (.command p)).PoolSound := by
  have all : ∀ (l : List Queued) (v : State), v.PoolOwing p (l.map (fun x => x.frame)) →
      (l.foldl (State.flushOne (.command p)) v).PoolSound := by
    intro l
    induction l with
    | nil => exact fun v hv => State.poolOwing_nil.1 hv
    | cons x l ih =>
      intro v hv
      have counted : KeepsCells (v.releaseShared p x.frame) (State.flushOne (.command p) v x) := .of_holders rfl
      exact ih _ (hv.releaseShared.keeps counted)
  exact all _ _ (h.emptyCommand p)

theorem State.PoolSound.cutTx (h : s.PoolSound) (p : FPort) : (s.cutTx (portOf p)).PoolSound := by
  unfold State.cutTx
  split
  · next x hx =>
    rw [State.releaseTx_portOf]
    have released := State.poolOwing_nil.1 (h.closeTx hx .cut).releaseShared
    exact (released.keeps (State.bumpPort_keepsCells _ _ _)).keeps (.of_holders rfl)
  · exact h

theorem State.PoolSound.finishTx (h : s.PoolSound) {q : Port} {x : Queued} (hx : (s.port q).tx = some x) :
    (s.finishTx q x.frame).PoolSound := by
  have field : ∀ p, q = portOf p → (s.finishTx q x.frame).PoolSound := by
    rintro p rfl
    rw [State.finishTx, State.releaseTx_portOf]
    exact (State.poolOwing_nil.1 (h.closeTx hx .endMarker).releaseShared).keeps (State.bumpPort_keepsCells _ _ _)
  cases q with
  | f0 => exact field .f0 rfl
  | f1 => exact field .f1 rfl
  | l => exact h.keeps ((State.closeTx_release_keepsCells hx .endMarker).trans (State.bumpPort_keepsCells _ .l _))

/-! ### Losses of link (R98, R100) -/

theorem State.PoolSound.fieldLinkLoss (h : s.PoolSound) (p : FPort) : (s.fieldLinkLoss p).PoolSound := by
  have down := h.keeps ((s.setLink_keepsCells (portOf p) .down).trans (State.abandon_keepsCells _ (portOf p) .aborted))
  refine ((down.cutTx p).flushCommand p).keeps ?_
  exact ((State.pathsLinkLoss_keepsCells _ p).trans (State.forceResolve_keepsCells _ (otherPort p))).trans
    (State.detect_keepsCells _ _)

theorem State.PoolSound.lineLinkLoss (h : s.PoolSound) : s.lineLinkLoss.PoolSound := by
  unfold State.lineLinkLoss
  split
  · exact State.takeReset_poolSound _
  · exact h.keeps (s.dropLine_keepsCells.trans (State.detect_keepsCells _ .l))

theorem State.PoolSound.linkLoss (h : s.PoolSound) (p : Port) : (s.linkLoss p).PoolSound := by
  cases p with
  | f0 => exact h.fieldLinkLoss .f0
  | f1 => exact h.fieldLinkLoss .f1
  | l => exact h.lineLinkLoss

theorem State.PoolSound.loseSignal (h : s.PoolSound) (p : Port) : (s.loseSignal p).PoolSound := by
  unfold State.loseSignal
  split
  · exact h
  · exact h.keeps (s.setLink_keepsCells p _)
  · exact h.linkLoss p

theorem State.PoolSound.lineError (h : s.PoolSound) (p : Port) (sub : Nat) : (s.lineError p sub).PoolSound := by
  unfold State.lineError
  split
  · exact h
  · exact h.keeps (s.breakRun_keepsCells p)
  · dsimp only
    have kept := fun e => h.keeps ((s.abandonMalformed_keepsCells p).trans (State.setLink_keepsCells _ p e))
    split
    · exact (kept _).linkLoss p
    · exact kept _

theorem State.PoolSound.endTx (h : s.PoolSound) (p : Port) : (s.endTx p).PoolSound := by
  unfold State.endTx
  split
  · next x hx =>
    split
    · exact s.takeReset_poolSound
    · exact h.finishTx hx
  · exact h

theorem State.PoolSound.takeFullReset (h : s.PoolSound) : s.takeFullReset.PoolSound := by
  unfold State.takeFullReset
  split
  · exact s.takeReset_poolSound
  · exact h

/-! ### Received frames (R91 to R95) -/

theorem State.offerCommand_soleCells (s : State) (p : FPort) (f : Frame) : (s.offerCommand p f).soleCells = s.soleCells := by
  by_cases takes : s.commandTakes p f = true
  · rw [State.offerCommand_takes takes]
    rfl
  · rw [State.offerCommand_full takes]
    rfl

/-- A field port offered a frame holds it besides, when its queue takes it (R95). -/
theorem State.offerCommand_fieldFrames (s : State) (p : FPort) (f : Frame) (q : FPort) :
    (s.offerCommand p f).fieldFrames q =
      if q = p ∧ s.commandTakes p f = true then s.fieldFrames q ++ [f] else s.fieldFrames q := by
  by_cases takes : s.commandTakes p f = true
  · rw [State.offerCommand_takes takes]
    rcases otherPort_cases p q with rfl | rfl
    · simp only [takes, State.fieldFrames, PerField.get_set_self, and_self, if_true, List.map_append, List.append_assoc,
        List.map_cons, List.map_nil]
      rfl
    · simp only [otherPort_ne p, State.fieldFrames, PerField.get_set_other _ _ (otherPort_ne p), false_and, if_false]
      rfl
  · rw [State.offerCommand_full takes, if_neg fun h => takes h.2]
    rfl

/-- A frame from L joins each field port that takes it, or is released (R95). -/
theorem State.PoolSoundWith.sendToField (h : s.PoolSoundWith f.cells) : (s.sendToField f).PoolSound := by
  by_cases taken : s.commandTakes .f0 f = true ∨ s.commandTakes .f1 f = true
  · have frames : ∀ q, (s.sendToField f).fieldFrames q =
        if s.commandTakes q f = true then s.fieldFrames q ++ [f] else s.fieldFrames q := fun q => by
      have second : (s.offerCommand .f0 f).commandTakes .f1 f = s.commandTakes .f1 f := s.commandTakes_offered .f0 f
      rw [State.sendToField_taken taken, State.offerCommand_fieldFrames, State.offerCommand_fieldFrames, second]
      cases q <;> simp
    have sole : (s.sendToField f).soleCells = s.soleCells := by
      rw [State.sendToField_taken taken, State.offerCommand_soleCells, State.offerCommand_soleCells]
    refine State.poolSound_iff.2 (sole ▸ PoolLaw.join h (fun q => ?_) ?_)
    · rw [frames]
      split
      · exact .inr rfl
      · exact .inl rfl
    · exact taken.elim (fun h => ⟨.f0, (frames _).trans (if_pos h)⟩) fun h => ⟨.f1, (frames _).trans (if_pos h)⟩
  · obtain ⟨h0, h1⟩ := not_or.1 taken
    rw [State.sendToField_refused h0 h1]
    refine h.placed (Gains.trans ?_ (State.returnCells_gains _ f.cells))
    exact (s.bumpGlobal_keepsCells _).trans (State.bumpGlobal_keepsCells _ _)

theorem State.PoolSoundWith.dispatchLine (h : s.PoolSoundWith f.cells) (k : Kind) : (s.dispatchLine f k).PoolSound := by
  cases k with
  | data | mgmtRsp | mgmtNotice => exact h.placed (s.lineData_gains f)
  | command => exact h.sendToField
  | mgmtReq =>
    show State.PoolSound (ite _ _ _)
    split
    · exact h.consumeRequest
    · exact h.sendToField

/-- A whole frame in hand finds its place (R92). -/
theorem State.PoolSoundWith.checkAndDispatch (h : s.PoolSoundWith f.cells) (p : Port) :
    (s.checkAndDispatch p f).PoolSound := by
  unfold State.checkAndDispatch
  split
  · split
    · next k _ =>
      cases p with
      | f0 => exact h.placed (s.dispatchField_gains .f0 f k)
      | f1 => exact h.placed (s.dispatchField_gains .f1 f k)
      | l => exact h.dispatchLine k
    · exact h.placed (s.headerError_gains p f)
  · exact h.placed (s.headerError_gains p f)

theorem State.PoolSound.endMarker (h : s.PoolSound) (p : Port) : (s.endMarker p).PoolSound := by
  unfold State.endMarker
  split
  · exact h
  · next r hr =>
    split
    · exact h.keeps (s.abandonMalformed_keepsCells p)
    · have inHand := (h.taken (State.endReception_gains hr)).keeps (State.bumpPort_keepsCells _ p .framesReceived)
      exact State.PoolSoundWith.checkAndDispatch (f := ⟨r.bytes, r.cells⟩) inHand p

theorem State.PoolSound.bySymbol (h : s.PoolSound) {p : Port} {g : State → State} (hg : (g s).PoolSound) :
    (s.bySymbol p g).PoolSound := by
  unfold State.bySymbol
  split
  · exact h
  · exact h.keeps (s.breakRun_keepsCells p)
  · exact hg

/-! ### Power and reset (R168, R172) -/

theorem State.powerUp_poolSound (s : State) : s.powerUp.PoolSound := by
  unfold State.powerUp
  split
  · exact State.cleared_poolSound _ _
  · exact State.takeReset_poolSound _

theorem State.PoolSound.assertReset (h : s.PoolSound) : s.assertReset.PoolSound := by
  unfold State.assertReset
  split
  · exact h.keeps (.of_holders rfl)
  · exact (s.interrupt.cleared_poolSound .held).keeps (.of_holders rfl)

theorem State.PoolSound.releaseReset (h : s.PoolSound) (lowNs : Nat) : (s.releaseReset lowNs).PoolSound := by
  unfold State.releaseReset
  split
  · exact h.keeps (.of_holders rfl)
  · split
    · exact State.takeReset_poolSound _
    · exact h

theorem State.PoolSound.loadEnds (h : s.PoolSound) : s.loadEnds.PoolSound := by
  unfold State.loadEnds
  split
  · exact h.keeps (s.endLoad_keepsCells.trans (State.settle_keepsCells _))
  · exact h

/-! ### Commands -/

/-- A happening of the running part, and what follows at once. -/
theorem State.PoolSound.whenRunning (h : s.PoolSound) {g : State → State} (hg : (g s).PoolSound) :
    (whenRunning g s).PoolSound := by
  by_cases hp : s.phase = .running
  · rw [whenRunning_running hp]
    exact hg.keeps (g s).settle_keepsCells
  · rw [whenRunning_stopped hp]
    exact h

/-- A happening of the running part that keeps the cells. -/
theorem State.PoolSound.whenRunning_keeps (h : s.PoolSound) {g : State → State} (hg : KeepsCells s (g s)) :
    (Machine.whenRunning g s).PoolSound := h.whenRunning (h.keeps hg)

/-- Every command that answers keeps the law of the pool. -/
theorem State.PoolSound.exec (h : s.PoolSound) {c : Instr} (e : exec c s = .next t) : t.PoolSound := by
  have answers : ∀ {u : State}, Machine.exec c s = .next u → u.PoolSound → t.PoolSound := fun e' hu =>
    Host.Outcome.next.inj (e.symm.trans e') ▸ hu
  have request : ∀ {m x r}, (Machine.whenRunning (fun s => s.agentRequest m x r) s).PoolSound :=
    h.whenRunning (h.agentRequest _ _ _)
  cases c with
  | powerOn => exact answers rfl s.powerUp_poolSound
  | powerLoss => exact answers rfl (State.cleared_poolSound _ _)
  | rstnAsserted => exact answers rfl h.assertReset
  | pinReset lowNs => exact answers rfl (h.releaseReset lowNs)
  | startUpLoadEnd => exact answers rfl h.loadEnds
  | signalDetected p =>
    have signal := h.keeps (s.setPort_keepsCells p (x := { s.port p with signal := true }) rfl rfl)
    exact answers rfl (signal.whenRunning_keeps (State.detect_keepsCells _ p))
  | signalLost p =>
    have signal := h.keeps (s.setPort_keepsCells p (x := { s.port p with signal := false }) rfl rfl)
    exact answers rfl (signal.whenRunning (signal.loseSignal p))
  | alignmentWordReceived p ack => exact answers rfl (h.whenRunning_keeps (s.alignmentWord_keepsCells p ack))
  | alignmentTimerRunOut p => exact answers rfl (h.whenRunning_keeps (s.alignmentTimeout_keepsCells p))
  | lineCodeError p sub => exact answers rfl (h.whenRunning (h.lineError p sub))
  | startMarkerReceived p => exact answers rfl (h.whenRunning (h.bySymbol (h.keeps (s.startMarker_keepsCells p))))
  | dataByteReceived p b => exact answers rfl (h.whenRunning (h.bySymbol (h.keeps (s.dataByte_keepsCells p b))))
  | abortMarkerReceived p => exact answers rfl (h.whenRunning (h.bySymbol (h.keeps (s.abandonMalformed_keepsCells p))))
  | frameReceived p => exact answers rfl (h.whenRunning (h.bySymbol (h.endMarker p)))
  | waitTimerRunOut r => exact answers rfl (h.whenRunning_keeps (s.resolveHeld_keepsCells r true))
  | pathTimerRunOut k p => exact answers rfl (h.whenRunning_keeps (s.pathTimeout_keepsCells k p))
  | intervalTimerRunOut k => exact answers rfl (h.whenRunning_keeps (s.intervalTimeout_keepsCells k))
  | transmissionStart p => exact answers rfl (h.whenRunning_keeps (s.startTx_keepsCells p))
  | transmissionEnd p => exact answers rfl (h.whenRunning (h.endTx p))
  | noticeOffer => exact answers rfl (h.whenRunning_keeps s.feedNotices_keepsCells)
  | agentTurnEnd => exact answers rfl (h.whenRunning h.endTurn)
  | badFrame bytes => exact answers rfl (h.whenRunning (h.requestComes fun v hv => hv.takeFrame bytes))
  | unknownRequest | identify | openSession | closeSession | readEntry | readStreamCounters | readPortCounters | readFaults
  | stageEntry | stageGlobals | readStaging | discardStaging | commit | saveImage | sealImage | resetPartTraffic
  | resetPartFull => exact answers rfl request
  | fullReset => exact answers rfl (h.whenRunning h.takeFullReset)
  | commitEnd => exact answers rfl (h.whenRunning_keeps s.commitEnds_keepsCells)
  | leaseTimerRunOut => exact answers rfl (h.whenRunning_keeps s.leaseTimeout_keepsCells)
  | bankEraseEnd => exact answers rfl (h.whenRunning_keeps s.eraseEnds_keepsCells)
  | bankWriteEnd => exact answers rfl (h.whenRunning_keeps s.writeEnds_keepsCells)
  | saveEnd misread =>
    cases hm : badAddress misread with
    | some a => simp [Machine.exec, execSaveEnd, hm] at e
    | none =>
      refine answers ?_ (h.whenRunning_keeps (g := fun s => s.saveEnds misread) (s.saveEnds_keepsCells misread))
      simp only [Machine.exec, execSaveEnd, hm]
  | sealEnd misread =>
    cases hm : badAddress misread with
    | some a => simp [Machine.exec, execSealEnd, hm] at e
    | none =>
      refine answers ?_ (h.whenRunning_keeps (g := fun s => s.sealEnds misread) (s.sealEnds_keepsCells misread))
      simp only [Machine.exec, execSealEnd, hm]
  | millisecondCountTick => exact answers rfl (h.keeps s.tick_keepsCells)

/-- Settles O56: an idle step changes nothing, any other is the command at the front; the number follows from the law. -/
theorem poolKept : Obligations.PoolKept := by
  intro s t h e
  have kept : t.PoolSound := by
    unfold step at e
    split at e
    · exact Host.Outcome.next.inj e ▸ h
    · next c rest _ =>
      have front : State.PoolSound { s with pending := rest } := h.keeps (.of_holders rfl)
      exact front.exec e
  exact ⟨kept, kept.count⟩

end Sys2Proof.Machine
end

section
/-! SUPPORT. The notice feed where it cannot take a record and where it can (R109, R162, R178), and O35. -/

namespace Sys2Proof.Machine

variable {s : State}

/-! ### A feed that cannot take a record -/

/-- No record can become a frame: L is not UP, no cell is free, or the lane is full behind a transmission on L (R109). -/
def State.FeedBlocked (s : State) : Prop :=
  s.linkUp .l = false ∨ s.free = [] ∨ (16 ≤ cellCount s.lane ∧ (s.port .l).tx ≠ none)

theorem State.grant_empty (empty : s.free = []) : s.grant noticeCells 0 = none := by
  rw [State.grant, empty]
  rfl

theorem State.roomFor_full (full : 16 ≤ cellCount s.lane) : s.roomFor .lane noticeCells = false := by
  refine decide_eq_false fun room => ?_
  have room : cellCount s.lane + 1 ≤ 16 := room
  omega

/-- Then the records stay (R109). -/
theorem State.FeedBlocked.feedNotices (h : s.FeedBlocked) : s.feedNotices = s := by
  unfold State.feedNotices
  cases s.notices with
  | nil => rfl
  | cons n rest =>
    unfold offerNotices
    rcases h with down | empty | ⟨full, -⟩
    · simp [down]
    · simp [State.grant_empty empty]
    · simp [State.roomFor_full full]

/-- A transmitter that starts does not change that: only L takes from the lane, and L is busy or not UP. -/
theorem State.FeedBlocked.startTx (h : s.FeedBlocked) (p : Port) : (s.startTx p).FeedBlocked := by
  rcases h with down | empty | ⟨full, busy⟩
  · refine .inl ?_
    rw [State.linkUp, (s.startTx_egress p).link]
    exact down
  · exact .inr (.inl ((s.startTx_pool p).2.trans empty))
  · refine .inr (.inr ?_)
    by_cases hp : p = .l
    · subst hp
      obtain ⟨x, hx⟩ := Option.ne_none_iff_exists'.1 busy
      rw [State.startTx_busy hx]
      exact ⟨full, busy⟩
    · rw [(s.startTx_field hp).1, State.startTx_port_other (Ne.symm hp)]
      exact ⟨full, busy⟩

/-- What follows at once then leaves records, serial and lost count. -/
theorem State.FeedBlocked.settle (h : s.FeedBlocked) :
    s.settle.notices = s.notices ∧ s.settle.serial = s.serial ∧ s.settle.noticesLost = s.noticesLost := by
  refine (State.settle_induct (P := fun u => u.FeedBlocked ∧ u.notices = s.notices ∧ u.serial = s.serial ∧
    u.noticesLost = s.noticesLost) ⟨h, rfl, rfl, rfl⟩ (fun u hu => ?_) fun u p ⟨blocked, notices, serial, lost⟩ => ?_).2
  · rw [hu.1.feedNotices]
    exact hu
  · exact ⟨blocked.startTx p, (u.startTx_lost p).1.trans notices, (u.startTx_pool p).1.trans serial,
      (u.startTx_lost p).2.trans lost⟩

/-! ### A feed that takes the oldest record -/

/-- The oldest record becomes a frame in the first free cell, and the feed goes on with the next (R109, R162). -/
theorem State.feedNotices_takes {n : NoticeRecord} {more : List NoticeRecord} {c : CellId} {rest : List CellId}
    (up : s.linkUp .l = true) (records : s.notices = n :: more) (room : cellCount s.lane + 1 ≤ 16) (free : s.free = c :: rest) :
    s.feedNotices = State.feedNotices (State.buildNotice { s with free := rest } n more [c]) := by
  have lane : s.roomFor .lane noticeCells = true := decide_eq_true room
  have granted : s.grant noticeCells 0 = some ([c], { s with free := rest }) := by
    rw [State.grant, free]
    rfl
  rw [State.feedNotices, records, offerNotices, up, lane, granted]
  rfl

/-- Settles O35: a blocked feed stays blocked through all that follows at once; a feed that is not takes the oldest record and is
taken up again by what follows at once. -/
theorem noticeOffered : Obligations.NoticeOffered := by
  refine ⟨fun s running blocked => ⟨s.settle, ?_, State.FeedBlocked.settle blocked⟩,
    fun s n more c rest running up records room free => ?_⟩
  · exact settles_whenRunning (f := State.feedNotices) running rfl (State.FeedBlocked.feedNotices blocked)
  · refine (settles_whenRunning (f := State.feedNotices) running rfl (State.feedNotices_takes up records room free)).trans ?_
    exact congrArg Host.Outcome.next (State.settle_feedNotices running)

end Sys2Proof.Machine
end

section
/-! SUPPORT. A request that an idle agent takes: where it is judged, how it is refused or executed, and what an answer leaves of
its effect, whether the response finds room or is dropped (R108, R119 to R122). -/

namespace Sys2Proof.Machine

variable {s u v : State} {m t : Word16} {c : Instr} {q : Request} {a : Agent} {payload results : List Byte}

theorem Answers.imp {P Q : State → Prop} (h : Answers c s P) (imp : ∀ w, P w → Q w) : Answers c s Q := by
  obtain ⟨w, e, hw⟩ := h
  exact ⟨w, e, imp w hw⟩

/-! ### The agent within a take -/

/-- What follows at once leaves the agent alone. -/
theorem State.settle_agent (v : State) : v.settle.agent = v.agent := by
  obtain ⟨-, -, -, -, agent, -⟩ := v.settle_egress.same
  exact agent

theorem AgentOnly.settle (h : AgentOnly u v) : AgentOnly u v.settle := by
  obtain ⟨egress, turn⟩ := h
  rw [AgentOnly, v.settle_agent]
  exact ⟨egress.trans v.settle_egress, turn⟩

/-- The agent `a` is that of `u` within a take: its turn has begun, and it keeps who holds the lease, what waits, and what is
pending (R119). -/
structure InTurn (u : State) (a : Agent) : Prop where
  busy : a.busy = true
  requests : a.requests = u.agent.requests
  fullPending : a.fullPending = u.agent.fullPending
  holder : a.lease.map (fun l => l.holder) = u.agent.lease.map (fun l => l.holder)

/-- The state `u` with the agent and the free cells of a take. -/
def State.inTurn (u : State) (a : Agent) (fr : List CellId) : State := { u with free := fr, agent := a }

/-- The agent that judges a request of manager `m`: the turn has begun, the holder's timer restarted (R119, R120). -/
def State.turnOf (s : State) (m : Word16) : Agent := { s.agent with busy := true, lease := s.leaseTouched m }

theorem InTurn.turnOf (kept : u.agent = s.agent) : InTurn u (s.turnOf m) := by
  refine ⟨rfl, ?_, ?_, ?_⟩
  all_goals rw [kept]
  · rfl
  · rfl
  · exact s.leaseTouched_holder m

theorem InTurn.agentOnly (h : InTurn u a) (fr : List CellId) : AgentOnly u (u.inTurn a fr) :=
  ⟨⟨rfl, fun _ => rfl⟩, h.busy, h.requests, h.fullPending, h.holder⟩

theorem InTurn.holds (h : InTurn u a) (fr : List CellId) (m : Word16) : (u.inTurn a fr).holds m = u.holds m :=
  State.holds_congr h.holder

/-- The holder's timer, when it runs, restarts with its full duration (R120, R124). -/
theorem State.leaseTouched_own {timer : Option Byte} (h : s.agent.lease = some ⟨m, timer⟩) :
    s.leaseTouched m = some ⟨m, timer.map (fun _ => s.globals.leaseTimeout)⟩ := by
  simp [State.leaseTouched, h]

/-- Another manager's request leaves the lease alone (R120). -/
theorem State.leaseTouched_other (h : ∀ l, s.agent.lease = some l → l.holder ≠ m) : s.leaseTouched m = s.agent.lease := by
  unfold State.leaseTouched
  cases held : s.agent.lease with
  | none => rfl
  | some l => simp [h l held]

theorem State.holds_iff : s.holds m = true ↔ ∃ timer, s.agent.lease = some ⟨m, timer⟩ := by
  unfold State.holds
  rcases s.agent.lease with _ | ⟨holder, timer⟩
  · simp
  · simp

theorem State.holds_eq_false : s.holds m = false ↔ ∀ l, s.agent.lease = some l → l.holder ≠ m := by
  unfold State.holds
  cases s.agent.lease <;> simp

/-! ### Placing a response -/

/-- The lane has room for a response with a payload, and the pool grants its cells (R108). -/
def State.Fits (s : State) (payload : List Byte) : Prop :=
  cellCount s.lane + responseCells payload ≤ 16 ∧ responseCells payload ≤ s.free.length

/-- A response that fits joins the tail of the lane in the first free cells (R108). -/
theorem State.place_fits (h : s.Fits payload) (t : Word16) : s.place t payload = { s with
    free := s.free.drop (responseCells payload)
    lane := s.lane ++ [⟨⟨mgmtFrame .mgmtRsp s.globals.station t payload, s.free.take (responseCells payload)⟩,
      .response false⟩] } := by
  obtain ⟨lane, free⟩ := h
  have room : s.roomFor .lane (responseCells payload) = true := decide_eq_true lane
  have granted : s.grant (responseCells payload) 0 =
      some (s.free.take (responseCells payload), { s with free := s.free.drop (responseCells payload) }) := if_pos free
  simp only [State.place, State.tryPlace, room, if_true, granted]
  rfl

/-- Any other response is dropped and counted (R108). -/
theorem State.place_dropped (h : ¬ s.Fits payload) (t : Word16) : s.place t payload = s.bumpGlobal .responseDropped := by
  have nowhere : s.tryPlace t payload false = none := by
    unfold State.tryPlace
    split
    · next room =>
      have refused : s.grant (responseCells payload) 0 = none := if_neg fun free => h ⟨of_decide_eq_true room, free⟩
      rw [refused]
    · rfl
  rw [State.place, nowhere]

theorem AgentOnly.place (only : AgentOnly u v) (fits : v.Fits payload) (t : Word16) : AgentOnly u (v.place t payload) := by
  obtain ⟨egress, turn⟩ := only
  rw [State.place_fits fits]
  exact ⟨egress.trans (.of_lane v _ _), turn⟩

theorem AgentOnly.place_dropped (only : AgentOnly u v) (full : ¬ v.Fits payload) (t : Word16) :
    AgentOnly (u.bumpGlobal .responseDropped) (v.place t payload) := by
  obtain ⟨⟨same, ports⟩, turn⟩ := only
  rw [State.place_dropped full]
  refine ⟨⟨?_, ports⟩, turn⟩
  rw [same]
  rfl

/-- A response that fits is on its way, and stays so through what follows at once (R96, R108). -/
theorem State.Fits.responded (fits : v.Fits payload) (station : v.globals.station = s.globals.station) :
    ∃ x, OnItsWay (v.place t payload) x ∧ x.frame.bytes = mgmtFrame .mgmtRsp s.globals.station t payload := by
  rw [State.place_fits fits, ← station]
  exact ⟨_, .inl (List.mem_append_right _ List.mem_cons_self), rfl⟩

/-! ### Answers -/

theorem AgentOnly.cacheResponse (only : AgentOnly u v) (m t : Word16) (st : Status) (payload : List Byte) :
    AgentOnly u (v.cacheResponse m t st payload) := by
  obtain ⟨⟨same, ports⟩, turn⟩ := only
  unfold State.cacheResponse
  split
  · refine ⟨⟨?_, ports⟩, turn⟩
    rw [same]
    rfl
  · exact ⟨⟨same, ports⟩, turn⟩

/-- The agent once a response has been answered under tag `t`, to the manager that holds the lease or to another (R121). -/
def Agent.answered (a : Agent) (holder : Bool) (t : Word16) (st : Status) (payload : List Byte) : Agent :=
  { a with cache := if holder && cacheable st then some ⟨t, payload⟩ else a.cache }

@[simp] theorem Agent.answered_lease (a : Agent) (holder : Bool) (t : Word16) (st : Status) (payload : List Byte) :
    (a.answered holder t st payload).lease = a.lease := rfl

/-- An answer writes the agent's cache alone, whether its response finds room or not (R121). -/
theorem State.answer_agent (s : State) (m t : Word16) (code : Byte) (st : Status) (results : List Byte) :
    (s.answer m t code st results).agent = s.agent.answered (s.holds m) t st (responsePayload code st results) := by
  have placed := s.place_agent t (responsePayload code st results)
  have holds : (s.place t (responsePayload code st results)).holds m = s.holds m := State.holds_congr (by rw [placed])
  unfold State.answer State.cacheResponse Agent.answered
  rw [holds]
  split
  · rw [State.setAgent_agent, placed]
  · rw [placed]

/-- An answer whose response fits: nothing but the agent and the egress fields is changed, and the response is on its way. -/
theorem AgentOnly.answer (only : AgentOnly u v) {code : Byte} {st : Status} (fits : v.Fits (responsePayload code st results))
    (station : v.globals.station = s.globals.station) :
    AgentOnly u (v.answer m t code st results).settle ∧
      Responded s (v.answer m t code st results).settle t (responsePayload code st results) := by
  obtain ⟨x, way, bytes⟩ := fits.responded (t := t) station
  refine ⟨((only.place fits t).cacheResponse m t st _).settle, x, OnItsWay.settle ?_, bytes⟩
  unfold State.answer State.cacheResponse
  split
  · exact way
  · exact way

/-! ### The take -/

theorem TakesAtOnce.agentIdle (h : TakesAtOnce s m t) : AgentIdle s := ⟨h.running, h.idle, h.noReset, h.empty⟩

theorem TakesAtOnce.oneFree (h : TakesAtOnce s m t) : 1 ≤ s.free.length := Nat.le_trans (by decide) h.cells

/-- A request row that an idle agent takes is judged once its frame is released, and then follows what the part does at once
(R108, R119, R120). -/
theorem AgentIdle.exec_judge (h : AgentIdle s) (one : 1 ≤ s.free.length) (ask : Asks m t c q) :
    ∃ fr, fr.length = s.free.length ∧ exec c s = .next ((s.judgedFrom m fr).judge m t q).settle := by
  obtain ⟨v, pool, e⟩ := State.requestComes_idle h.idle h.noReset h.empty (bytes := s.requestFrame m t q)
    (by rw [State.requestFrame_cell]; exact one) (fun s => s.takeRequest m t q)
  have begun : v.beginTurn.touchLease m = s.judgedFrom m v.free := by
    rw [State.begun_eq, State.judgedFrom]
    conv_lhs => rw [pool.same]
    rfl
  refine ⟨v.free, pool.cells.length_eq, ?_⟩
  rw [ask.exec_eq, whenRunning_running h.running, State.agentRequest, e, State.takeRequest, begun]

theorem State.judgedFrom_cachedFor (s : State) (m t : Word16) (fr : List CellId) :
    (s.judgedFrom m fr).cachedFor m t = s.cachedFor m t := by
  unfold State.cachedFor
  rw [s.judgedFrom_holds]
  rfl

/-- Step 2 of Table 8-1: a repeated tag is answered from the cache (R120, R121). -/
theorem State.judge_cached {content : List Byte} (h : s.cachedFor m t = some content) : s.judge m t q = s.place t content := by
  rw [State.judge, h]

/-- Steps 3 to 6: a refused request is answered with its status alone (R120). -/
theorem State.judge_refused {st : Status} (fresh : s.cachedFor m t = none) (refused : s.refusal m q = some st) :
    s.judge m t q = s.answer m t (requestCode q) st [] := by
  rw [State.judge, fresh, refused]

/-- Step 7 (R120). -/
theorem State.judge_executed (fresh : s.cachedFor m t = none) (allowed : s.refusal m q = none) :
    s.judge m t q = s.execute m t q := by
  rw [State.judge, fresh, allowed]

/-- A request row whose judging is an answer from the effect `u`, the agent being `a`, and whose response fits: the effect
stands, the response is on its way, and the cache takes it by R121. -/
theorem AgentIdle.answers (h : AgentIdle s) (one : 1 ≤ s.free.length) (ask : Asks m t c q) (turn : InTurn u a)
    (station : u.globals.station = s.globals.station) {code : Byte} {st : Status}
    (judged : ∀ fr, fr.length = s.free.length →
      (s.judgedFrom m fr).judge m t q = (u.inTurn a fr).answer m t code st results)
    (fits : State.Fits { s with lane := u.lane } (responsePayload code st results)) :
    Answers c s (fun w => AgentOnly u w ∧
      w.agent = a.answered (u.holds m) t st (responsePayload code st results) ∧
      Responded s w t (responsePayload code st results)) := by
  obtain ⟨fr, same, e⟩ := h.exec_judge one ask
  have room : (u.inTurn a fr).Fits (responsePayload code st results) := ⟨fits.1, fits.2.trans_eq same.symm⟩
  obtain ⟨only, responded⟩ := (turn.agentOnly fr).answer (m := m) (t := t) room station
  rw [← judged fr same] at only responded
  refine ⟨_, e, only, ?_, responded⟩
  rw [State.settle_agent, judged fr same, State.answer_agent, turn.holds]
  rfl

/-- The same when the response does not fit: it is dropped and counted, its effect and the cache stand (R108, R121). -/
theorem AgentIdle.answers_dropped (h : AgentIdle s) (one : 1 ≤ s.free.length) (ask : Asks m t c q) (turn : InTurn u a)
    {code : Byte} {st : Status}
    (judged : ∀ fr, fr.length = s.free.length →
      (s.judgedFrom m fr).judge m t q = (u.inTurn a fr).answer m t code st results)
    (full : ¬ State.Fits { s with lane := u.lane } (responsePayload code st results)) :
    Answers c s (fun w => AgentOnly (u.bumpGlobal .responseDropped) w ∧
      w.agent = a.answered (u.holds m) t st (responsePayload code st results)) := by
  obtain ⟨fr, same, e⟩ := h.exec_judge one ask
  have nowhere : ¬ (u.inTurn a fr).Fits (responsePayload code st results) := fun room => full ⟨room.1, room.2.trans_eq same⟩
  have only := (((turn.agentOnly fr).place_dropped nowhere t).cacheResponse m t st (responsePayload code st results)).settle
  refine ⟨_, e, ?_, ?_⟩
  · rw [judged fr same]
    exact only
  · rw [State.settle_agent, judged fr same, State.answer_agent, turn.holds]
    rfl

/-- Where any response fits, so does each of up to 128 bytes (R107). -/
theorem TakesAtOnce.fits (h : TakesAtOnce s m t) (short : payload.length ≤ 128) : s.Fits payload := by
  have cells := responseCells_le short
  exact ⟨by have := h.room; omega, cells.trans h.cells⟩

theorem length_responsePayload (code : Byte) (st : Status) (results : List Byte) :
    (responsePayload code st results).length = results.length + 2 := by
  simp [responsePayload]

/-! ### Refusals (Table 8-1) -/

/-- While an operation is in progress, BUSY for every request that does not pass (R122). -/
theorem State.refusal_busy (known : ∀ x, q ≠ .unknown x) (op : s.op ≠ .idle)
    (stopped : passesDuring (s.holds m) q = false) :
    s.refusal m q = some .busy := by
  unfold State.refusal
  split
  · next x => exact absurd rfl (known x)
  · rw [if_pos ⟨op, stopped⟩]

/-- NO_SESSION for a request that needs the lease, of a manager that does not hold it (R127). -/
theorem State.refusal_noSession (known : ∀ x, q ≠ .unknown x) (op : s.op = .idle) (needs : needsLease q = true)
    (other : s.holds m = false) : s.refusal m q = some .noSession := by
  unfold State.refusal
  split
  · next x => exact absurd rfl (known x)
  · rw [if_neg (fun busy => busy.1 op), if_pos (by rw [needs, other]; rfl)]

/-- BAD_ARGUMENT for an argument out of its range (R120). -/
theorem State.refusal_badArgument (known : ∀ x, q ≠ .unknown x) (op : s.op = .idle) (holder : s.holds m = true)
    (bad : argumentsOk q = false) : s.refusal m q = some .badArgument := by
  unfold State.refusal
  split
  · next x => exact absurd rfl (known x)
  · rw [if_neg (fun busy => busy.1 op), if_neg (by simp [holder]), if_neg (by simp [bad])]

/-- A request that steps 3 to 6 refuse changes nothing and is answered with its status (R120, R121). -/
theorem TakesAtOnce.refused (h : TakesAtOnce s m t) (ask : Asks m t c q) {st : Status}
    (refused : ∀ fr, (s.judgedFrom m fr).refusal m q = some st) :
    Answers c s (fun w => AgentOnly s w ∧
      w.agent = (s.turnOf m).answered (s.holds m) t st [requestCode q, statusCode st] ∧
      Responded s w t [requestCode q, statusCode st]) :=
  h.agentIdle.answers h.oneFree ask (.turnOf rfl) rfl
    (fun fr _ => State.judge_refused ((s.judgedFrom_cachedFor m t fr).trans h.fresh) (refused fr))
    (h.fits (by rw [length_responsePayload]; decide))

/-- A request that no step refuses, executed by the effect `u` and answered (R119 to R121). -/
theorem TakesAtOnce.executed (h : TakesAtOnce s m t) (ask : Asks m t c q)
    (allowed : ∀ fr, (s.judgedFrom m fr).refusal m q = none) (turn : InTurn u a)
    (lane : u.lane = s.lane) (station : u.globals.station = s.globals.station) (code : Byte) (st : Status)
    (short : results.length ≤ 126)
    (execute : ∀ fr, fr.length = s.free.length →
      (s.judgedFrom m fr).execute m t q = (u.inTurn a fr).answer m t code st results) :
    Answers c s (fun w => AgentOnly u w ∧
      w.agent = a.answered (u.holds m) t st (responsePayload code st results) ∧
      Responded s w t (responsePayload code st results)) := by
  refine h.agentIdle.answers h.oneFree ask turn station (fun fr same => ?_) ?_
  · rw [State.judge_executed ((s.judgedFrom_cachedFor m t fr).trans h.fresh) (allowed fr), execute fr same]
  · rw [lane]
    exact h.fits (by rw [length_responsePayload]; omega)

/-- While no operation is in progress no step refuses a known request of the holder whose arguments are in range (R120). -/
theorem State.judgedFrom_allows (holder : s.holds m = true) (op : s.op = .idle) (known : ∀ x, q ≠ .unknown x)
    (args : argumentsOk q = true) (fr : List CellId) : (s.judgedFrom m fr).refusal m q = none :=
  State.refusal_none known op (.inr ((s.judgedFrom_holds m fr).trans holder)) args

/-- A request of the holder that leaves the agent alone: its effect stands, its response is on its way (R119 to R121). -/
theorem TakesAtOnce.effects (h : TakesAtOnce s m t) (holder : s.holds m = true) (op : s.op = .idle) (ask : Asks m t c q)
    (known : ∀ x, q ≠ .unknown x) (args : argumentsOk q = true) (u : State) (agent : u.agent = s.agent)
    (lane : u.lane = s.lane) (station : u.globals.station = s.globals.station) (code : Byte) (st : Status)
    (short : results.length ≤ 126)
    (execute : ∀ fr, fr.length = s.free.length →
      (s.judgedFrom m fr).execute m t q = (u.inTurn (s.turnOf m) fr).answer m t code st results) :
    Answers c s (fun w => AgentOnly u w ∧ Responded s w t (responsePayload code st results)) :=
  (h.executed ask (State.judgedFrom_allows holder op known args) (.turnOf agent) lane station code st short execute).imp
    fun _ ⟨only, _, responded⟩ => ⟨only, responded⟩

end Sys2Proof.Machine
end

section
/-! SUPPORT. The clearing reads, READ_FAULTS, the refused requests, and RESET_PART FULL: O37, O41 and O44 (R120 to R122, R127, R129
to R131, R135, R158). -/

namespace Sys2Proof.Machine

variable {s : State} {m t : Word16} {c : Instr} {q : Request}

/-! ### Clearing reads (R129 to R131) -/

theorem slotOf_eq {slot : Byte} {k : Fin 64} (h : slot.toNat = k.val) : slotOf slot = k := by
  rw [slotOf, h]
  exact Fin.ofNat_val_eq_self k

theorem length_streamCounters (s : State) (k : Fin 64) : ((s.streamCounters k).toList.flatMap be32).length = 84 := by
  rw [length_flatMap_const length_be32, Vector.length_toList]

/-- READ_PORT_COUNTERS with the clear: the page is reported, and its counters alone are set to 0 (R130). -/
theorem TakesAtOnce.readPortCounters_clears (h : TakesAtOnce s m t) (holder : s.holds m = true) (op : s.op = .idle)
    {page : Byte} (arg : page.toNat ≤ 1) : Answers (.readPortCounters m t 1#8 page) s (fun w =>
      AgentOnly (s.clearPage page) w ∧ Responded s w t ([6#8, 0#8] ++ s.portCounterResults page)) := by
  have kept : (s.clearPage page).agent = s.agent ∧ (s.clearPage page).lane = s.lane ∧
      (s.clearPage page).globals = s.globals := by
    unfold State.clearPage
    split <;> exact ⟨rfl, rfl, rfl⟩
  obtain ⟨agent, lane, globals⟩ := kept
  refine h.effects holder op (.readPortCounters 1#8 page) nofun (by simp [argumentsOk, arg])
    (s.clearPage page) agent lane (by rw [globals]) 6#8 .ok ((length_portCounterResults s page).trans (by decide))
    fun fr same => ?_
  rw [State.execute, State.runReadPortCounters, if_neg (by decide), Reply.answer,
    State.portCounterResults_judgedFrom s m same]
  have cleared : (s.judgedFrom m fr).clearPage page = (s.clearPage page).inTurn (s.turnOf m) fr := by
    unfold State.clearPage
    split <;> rfl
  rw [cleared]

/-- Settles O37. -/
theorem clearingReads : Obligations.ClearingReads := by
  refine ⟨fun s m t h holder op => ⟨fun slot k hk => ?_, ?_, ?_⟩, fun s m t n h holder op low high => ?_⟩
  · refine h.effects holder op (.readStreamCounters slot 1#8) nofun ?_
      (s.mapStream k (fun st => { st with counters := Vector.replicate 21 0#32 })) rfl rfl rfl 5#8 .ok
      (results := [slot] ++ (s.streamCounters k).toList.flatMap be32) ?_ fun fr _ => ?_
    · have inside : slot.toNat ≤ 63 := by omega
      simp [argumentsOk, inside]
    · rw [List.length_append, length_streamCounters, List.length_singleton]
      decide
    · rw [State.execute, State.runReadStreamCounters, if_neg (by decide), slotOf_eq hk]
      rfl
  · exact h.readPortCounters_clears holder op (page := 0#8) (by decide)
  · exact h.readPortCounters_clears holder op (page := 1#8) (by decide)
  · exact h.effects holder op (.readFaults n) nofun (by simp [argumentsOk, low, high])
      { s with faults := s.faults.drop n.toNat, overflow := 0#16 } rfl rfl rfl 7#8 .ok
      (results := s.faultResults n.toNat) ((length_faultResults s n.toNat high).trans (by decide)) fun _ _ => rfl

/-! ### Refused requests (R120 to R122, R127) -/

theorem known_of_needsLease (h : needsLease q = true) : ∀ x, q ≠ .unknown x := by
  rintro x rfl
  cases h

/-- A request row that needs the lease brings a request that needs it, and that no operation in progress lets pass. -/
theorem NeedsLease.asks {code : Byte} (h : NeedsLease m t c code) : ∃ q, Asks m t c q ∧ requestCode q = code ∧
    needsLease q = true ∧ ∀ holder, passesDuring holder q = false := by
  cases h with
  | readStreamCounters slot clear set =>
    exact ⟨_, .readStreamCounters slot clear, rfl, bne_iff_ne.2 set, fun _ => beq_eq_false_iff_ne.2 set⟩
  | readPortCounters clear page set =>
    exact ⟨_, .readPortCounters clear page, rfl, bne_iff_ne.2 set, fun _ => beq_eq_false_iff_ne.2 set⟩
  | readFaults n => exact ⟨_, .readFaults n, rfl, rfl, fun _ => rfl⟩
  | stageEntry slot action present rec =>
    exact ⟨_, .stageEntry slot action present rec, rfl, rfl, fun _ => rfl⟩
  | stageGlobals rec => exact ⟨_, .stageGlobals rec, rfl, rfl, fun _ => rfl⟩
  | discardStaging => exact ⟨_, .discardStaging, rfl, rfl, fun _ => rfl⟩
  | commit => exact ⟨_, .commit, rfl, rfl, fun _ => rfl⟩
  | saveImage => exact ⟨_, .saveImage, rfl, rfl, fun _ => rfl⟩
  | sealImage => exact ⟨_, .sealImage, rfl, rfl, fun _ => rfl⟩
  | resetPartTraffic => exact ⟨_, .resetPartTraffic, rfl, rfl, fun _ => rfl⟩
  | resetPartFull => exact ⟨_, .resetPartFull, rfl, rfl, fun _ => rfl⟩

/-- A refusal that the cache does not take, BUSY or for want of the lease, changes nothing (R121). -/
theorem TakesAtOnce.refused_uncached (h : TakesAtOnce s m t) (ask : Asks m t c q) {st : Status}
    (uncached : (s.holds m && cacheable st) = false) (refused : ∀ fr, (s.judgedFrom m fr).refusal m q = some st) :
    Answers c s (fun w => AgentOnly s w ∧ w.agent.cache = s.agent.cache ∧
      Responded s w t [requestCode q, statusCode st]) := by
  refine (h.refused ask refused).imp fun w ⟨only, agent, responded⟩ => ⟨only, ?_, responded⟩
  rw [agent, Agent.answered, uncached]
  rfl

/-- BUSY for a request that does not pass while an operation is in progress (R122). -/
theorem TakesAtOnce.busy (h : TakesAtOnce s m t) (ask : Asks m t c q) (op : s.op ≠ .idle) (known : ∀ x, q ≠ .unknown x)
    (stopped : passesDuring (s.holds m) q = false) : Answers c s (fun w => AgentOnly s w ∧ w.agent.cache = s.agent.cache ∧
      Responded s w t [requestCode q, 2#8]) :=
  h.refused_uncached ask (st := .busy) (Bool.and_false _) fun fr =>
    State.refusal_busy known op (by rw [s.judgedFrom_holds]; exact stopped)

/-- BAD_FRAME touches neither lease, timer nor cache (R120). -/
theorem AgentIdle.badFrame_answers (h : AgentIdle s) (lane : cellCount s.lane + 1 ≤ 16) {bytes : List Byte}
    (bad : requestFrameOk bytes = false) (one : 1 ≤ s.free.length) (cells : cellsFor bytes.length ≤ s.free.length) :
    Answers (.badFrame bytes) s (fun u => EgressOnly { s with agent := { s.agent with busy := true } } u ∧
      Responded s u (frameSeq bytes) [0#8, 8#8]) := by
  obtain ⟨v, pool, e⟩ := State.requestComes_idle h.idle h.noReset h.empty cells (fun s => s.takeFrame bytes)
  have taken : v.takeFrame bytes = (s.inTurn { s.agent with busy := true } v.free).place (frameSeq bytes) [0#8, 8#8] := by
    rw [State.takeFrame, bad, pool.same]
    rfl
  have fits : (s.inTurn { s.agent with busy := true } v.free).Fits [0#8, 8#8] :=
    ⟨lane, one.trans_eq pool.cells.length_eq.symm⟩
  obtain ⟨x, way, content⟩ := fits.responded (s := s) (t := frameSeq bytes) rfl
  refine ⟨(v.takeFrame bytes).settle, ?_, ?_, x, ?_, content⟩
  · show Host.Outcome.next (whenRunning (fun s => s.agentFrame bytes) s) = _
    rw [whenRunning_running h.running, State.agentFrame, e]
  · rw [taken, State.place_fits fits]
    exact EgressOnly.trans ⟨rfl, fun _ => rfl⟩ (State.settle_egress _)
  · rw [taken]
    exact way.settle

/-- Settles O41. -/
theorem requestsRefused : Obligations.RequestsRefused := by
  intro s m t h
  refine ⟨fun bytes bad cells => ?_, fun bytes full => ?_, fun code unknown => ?_, fun c code needs => ?_, fun other op => ?_⟩
  · exact h.agentIdle.badFrame_answers (by have := h.room; omega) bad h.oneFree cells
  · exact settles_whenRunning h.running rfl (State.requestComes_refused full _)
  · exact (h.refused (.unknownRequest code unknown) fun _ => rfl).imp fun _ ⟨only, _, responded⟩ => ⟨only, responded⟩
  · obtain ⟨q, ask, rfl, lease, stopped⟩ := needs.asks
    have known := known_of_needsLease lease
    refine ⟨fun other op => ?_, fun op => h.busy ask op known (stopped _)⟩
    exact h.refused_uncached ask (st := .noSession) (by rw [other, Bool.false_and]) fun fr =>
      State.refusal_noSession known op lease ((s.judgedFrom_holds m fr).trans other)
  · exact h.busy (q := .openSession) .openSession op nofun other

/-! ### RESET_PART FULL (R135) -/

/-- With L UP and room for any response, the OK response is placed, cached, and the reset becomes pending. -/
theorem State.runResetFull_up (up : s.linkUp .l = true) (roomy : Roomy s) (code : Byte) :
    ∃ lane free cache, s.runResetFull m t code = { s with
      lane := lane, free := free, agent := { s.agent with cache := cache, fullPending := true } } ∧
      ∃ x ∈ lane, x.frame.bytes = mgmtFrame .mgmtRsp s.globals.station t [code, 0#8] := by
  have placed := State.tryPlace_roomy roomy (t := t) (payload := responsePayload code .ok []) true
    (by rw [length_responsePayload]; decide)
  simp only [State.runResetFull, up, if_true, placed, State.cacheResponse]
  split
  · exact ⟨_, _, _, rfl, _, List.mem_append_right _ List.mem_cons_self, rfl⟩
  · exact ⟨_, _, s.agent.cache, rfl, _, List.mem_append_right _ List.mem_cons_self, rfl⟩

/-- Settles O44. -/
theorem fullResetRequested : Obligations.FullResetRequested := by
  intro s m t h holder op
  obtain ⟨fr, -, roomy, executed⟩ := h.exec_judged .resetPartFull
  have e : exec (.resetPartFull m t) s = .next ((s.judgedFrom m fr).runResetFull m t 15#8).settle :=
    executed (State.judgedFrom_allows holder op (q := .resetPart 2#8) nofun rfl fr)
  refine ⟨fun up => ?_, fun down => ?_⟩
  · obtain ⟨lane, free, cache, placed, x, way, content⟩ :=
      State.runResetFull_up (m := m) (t := t) (s := s.judgedFrom m fr) up roomy 15#8
    refine ⟨_, e, ?_⟩
    rw [placed]
    refine ⟨AgentOnly.settle ⟨⟨rfl, fun _ => rfl⟩, rfl, rfl, rfl, s.leaseTouched_holder m⟩, x, OnItsWay.settle (.inl way),
      content⟩
  · have taken : (s.judgedFrom m fr).runResetFull m t 15#8 = (s.judgedFrom m fr).takeReset := if_neg (by
      rw [Bool.not_eq_true]
      exact down)
    have fresh := (s.judgedFrom m fr).takeReset_fresh
    have loading : (s.judgedFrom m fr).takeReset.phase ≠ .running := by
      rw [fresh.phase]
      decide
    refine ⟨_, e, ?_⟩
    rw [taken, State.settle_stopped loading]
    exact { fresh with }

end Sys2Proof.Machine
end

section
/-! SUPPORT. Sessions, and what every request does to the lease: O38 (R120, R123, R124, R126). -/

namespace Sys2Proof.Machine

variable {s : State} {m t : Word16} {c : Instr} {q : Request}

/-! ### OPEN_SESSION (R123) -/

/-- OPEN_SESSION of a manager that no operation in progress keeps out is never refused (R122, Table 8-2). -/
theorem State.judgedFrom_opens (h : s.op = .idle ∨ s.holds m = true) (fr : List CellId) :
    (s.judgedFrom m fr).refusal m .openSession = none := by
  have passes : ¬ ((s.judgedFrom m fr).op ≠ .idle ∧ passesDuring ((s.judgedFrom m fr).holds m) .openSession = false) := by
    rintro ⟨busy, stopped⟩
    rcases h with idle | holder
    · exact busy idle
    · rw [s.judgedFrom_holds, holder] at stopped
      cases stopped
  rw [State.refusal, if_neg passes]
  · rfl
  · nofun

/-- A free lease is granted, its timer started, the cache emptied for the response that follows. -/
theorem TakesAtOnce.openSession_grants (h : TakesAtOnce s m t) (free : s.agent.lease = none) (op : s.op = .idle) :
    Answers (.openSession m t) s (fun u =>
      AgentOnly { s with agent := { s.agent with lease := some ⟨m, some s.globals.leaseTimeout⟩ } } u ∧
      u.agent.lease = some ⟨m, some s.globals.leaseTimeout⟩ ∧
      u.agent.cache = some ⟨t, [2#8, 0#8] ++ be16 m⟩ ∧ Responded s u t ([2#8, 0#8] ++ be16 m)) := by
  have turn : InTurn { s with agent := { s.agent with lease := some ⟨m, some s.globals.leaseTimeout⟩ } }
      { s.agent with busy := true, lease := some ⟨m, some s.globals.leaseTimeout⟩, cache := none } := ⟨rfl, rfl, rfl, rfl⟩
  have touched : s.leaseTouched m = none := by rw [State.leaseTouched, free]; rfl
  refine (h.executed .openSession (State.judgedFrom_opens (.inl op)) turn rfl rfl 2#8 .ok (results := be16 m) (by simp)
    fun fr _ => ?_).imp fun w ⟨only, agent, responded⟩ => ⟨only, by rw [agent, Agent.answered_lease], ?_, responded⟩
  · have lease : (s.judgedFrom m fr).agent.lease = none := touched
    rw [State.execute, State.runOpenSession, lease]
    rfl
  · rw [agent, State.holds_iff.2 ⟨_, rfl⟩]
    rfl

/-- The holder's lease is renewed: its timer restarts when it runs. -/
theorem TakesAtOnce.openSession_renews (h : TakesAtOnce s m t) {timer : Option Byte}
    (held : s.agent.lease = some ⟨m, timer⟩) : Answers (.openSession m t) s (fun u =>
      AgentOnly s u ∧ u.agent.lease = some ⟨m, timer.map (fun _ => s.globals.leaseTimeout)⟩ ∧
      u.agent.cache = some ⟨t, [2#8, 0#8] ++ be16 m⟩ ∧ Responded s u t ([2#8, 0#8] ++ be16 m)) := by
  have holds : s.holds m = true := State.holds_iff.2 ⟨timer, held⟩
  have touched := State.leaseTouched_own held
  refine (h.executed (a := s.turnOf m) .openSession (State.judgedFrom_opens (.inr holds)) (.turnOf rfl) rfl rfl 2#8 .ok
    (results := be16 m) (by simp) fun fr _ => ?_).imp
    fun w ⟨only, agent, responded⟩ => ⟨only, by rw [agent, ← touched]; rfl, ?_, responded⟩
  · have lease : (s.judgedFrom m fr).agent.lease = some ⟨m, timer.map (fun _ => s.globals.leaseTimeout)⟩ := touched
    simp only [State.execute, State.runOpenSession, lease, if_true]
    rfl
  · rw [agent, holds]
    rfl

/-- Another manager's OPEN_SESSION is HELD; the cache is the holder's and does not take it (R121). -/
theorem TakesAtOnce.openSession_held (h : TakesAtOnce s m t) {l : Lease} (held : s.agent.lease = some l)
    (other : l.holder ≠ m) (op : s.op = .idle) : Answers (.openSession m t) s (fun u =>
      AgentOnly s u ∧ u.agent.lease = some l ∧ u.agent.cache = s.agent.cache ∧
      Responded s u t ([2#8, 4#8] ++ be16 l.holder)) := by
  have others : ∀ l', s.agent.lease = some l' → l'.holder ≠ m := by
    intro l' held'
    obtain rfl : l = l' := Option.some.inj (held.symm.trans held')
    exact other
  have touched : s.leaseTouched m = some l := (State.leaseTouched_other others).trans held
  refine (h.executed (a := s.turnOf m) .openSession (State.judgedFrom_opens (.inl op)) (.turnOf rfl) rfl rfl 2#8 .held
    (results := be16 l.holder) (by simp) fun fr _ => ?_).imp
    fun w ⟨only, agent, responded⟩ => ⟨only, by rw [agent, ← touched]; rfl, ?_, responded⟩
  · have lease : (s.judgedFrom m fr).agent.lease = some l := touched
    simp only [State.execute, State.runOpenSession, lease, if_neg other]
    rfl
  · rw [agent, State.holds_eq_false.2 others]
    rfl

/-! ### CLOSE_SESSION (R126) -/

theorem State.refusal_closeSession (s : State) (m : Word16) : s.refusal m .closeSession = none :=
  State.refusal_passes nofun (fun _ => rfl) rfl rfl

theorem TakesAtOnce.closeSession_frees (h : TakesAtOnce s m t) (holder : s.holds m = true) :
    Answers (.closeSession m t) s (fun u =>
      AgentOnly { s with agent := { s.agent with lease := none }, staging := [] } u ∧
      u.agent.lease = none ∧ u.agent.cache = none ∧ Responded s u t [3#8, 0#8]) := by
  have turn : InTurn { s with agent := { s.agent with lease := none }, staging := [] }
      { s.agent with busy := true, lease := none, cache := none } := ⟨rfl, rfl, rfl, rfl⟩
  refine (h.executed .closeSession (fun fr => State.refusal_closeSession _ m) turn rfl rfl 3#8 .ok (results := []) (by simp)
    fun fr _ => ?_).imp
    fun w ⟨only, agent, responded⟩ => ⟨only, by rw [agent, Agent.answered_lease], by rw [agent]; rfl, responded⟩
  rw [State.execute, State.runCloseSession, s.judgedFrom_holds, if_pos holder]
  rfl

theorem TakesAtOnce.closeSession_noSession (h : TakesAtOnce s m t) (other : s.holds m = false) :
    Answers (.closeSession m t) s (fun u => AgentOnly s u ∧ u.agent.lease = s.agent.lease ∧
      u.agent.cache = s.agent.cache ∧ Responded s u t [3#8, 3#8]) := by
  have touched : s.leaseTouched m = s.agent.lease := State.leaseTouched_other (State.holds_eq_false.1 other)
  refine (h.executed (a := s.turnOf m) .closeSession (fun fr => State.refusal_closeSession _ m) (.turnOf rfl) rfl rfl 3#8 .noSession
    (results := []) (by simp) fun fr _ => ?_).imp
    fun w ⟨only, agent, responded⟩ => ⟨only, by rw [agent, ← touched]; rfl, by rw [agent, other]; rfl, responded⟩
  rw [State.execute, State.runCloseSession, s.judgedFrom_holds, other]
  rfl

/-! ### The lease through every request (R120, R124) -/

theorem Asks.resetPart_kind (ask : Asks m t c q) (kind : Byte) (e : q = .resetPart kind) : kind = 1#8 ∨ kind = 2#8 := by
  subst e
  cases ask with
  | resetPartTraffic => exact .inl rfl
  | resetPartFull => exact .inr rfl

/-- Every request but those that end the lease or begin an operation leaves it as its take has touched it. -/
theorem AgentIdle.answers_lease (h : AgentIdle s) (one : 1 ≤ s.free.length) (ask : Asks m t c q) {l : Lease}
    (held : s.agent.lease = some l) (keeps : s.cachedFor m t ≠ none ∨ l.holder ≠ m ∨
      q ∉ [.closeSession, .commit, .saveImage, .sealImage, .resetPart 2#8]) :
    Answers c s (fun u => u.agent.lease = s.leaseTouched m) := by
  obtain ⟨fr, -, e⟩ := h.exec_judge one ask
  refine ⟨_, e, ?_⟩
  show ((s.judgedFrom m fr).judge m t q).settle.agent.lease = _
  rw [State.settle_agent]
  have lease : (s.judgedFrom m fr).agent.lease = some
      ⟨l.holder, if l.holder = m then l.timer.map (fun _ => s.globals.leaseTimeout) else l.timer⟩ := by
    show s.leaseTouched m = _
    rw [State.leaseTouched, held]
    rfl
  have kept := State.judge_lease (t := t) lease ask.resetPart_kind
    (by rw [s.judgedFrom_cachedFor]; exact keeps)
  rw [kept]
  rfl

/-- Settles O38. -/
theorem sessions : Obligations.Sessions := by
  refine ⟨fun s m t h => ⟨h.openSession_grants, fun _ => h.openSession_renews, fun _ => h.openSession_held,
    h.closeSession_frees, h.closeSession_noSession⟩, fun s m t c q l h ask one held => ⟨fun own keeps => ?_, fun other => ?_⟩⟩
  · subst own
    refine (h.answers_lease one ask held (keeps.imp_right .inr)).imp fun w lease => ?_
    rw [lease, State.leaseTouched_own held]
  · refine (h.answers_lease one ask held (.inr (.inl other))).imp fun w lease => ?_
    rw [lease, State.leaseTouched, held, Option.map_some, if_neg other]

end Sys2Proof.Machine
end

section
/-! SUPPORT. The staging area, and the requests that stage: O39 (R132, R137 to R139). -/

namespace Sys2Proof.Machine

variable {s : State} {m t : Word16} {c : Instr} {q : Request}

/-! ### The area (R137 to R139) -/

section
variable {area : List Staged} {r : Staged}

theorem stageInto_absent (absent : ∀ x ∈ area, sameRecordTarget r x = false) :
    stageInto area r = if area.length < stagingLimit then some (area ++ [r]) else none := by
  have none_of_target : ¬ area.any (sameRecordTarget r) = true := by
    rw [List.any_eq_true]
    rintro ⟨x, hx, same⟩
    rw [absent x hx] at same
    cases same
  rw [stageInto, if_neg none_of_target]

theorem stageInto_append (absent : ∀ x ∈ area, sameRecordTarget r x = false) (room : area.length < 16) :
    stageInto area r = some (area ++ [r]) := by
  rw [stageInto_absent absent, if_pos (by exact room)]

theorem stageInto_full (absent : ∀ x ∈ area, sameRecordTarget r x = false) (full : 16 ≤ area.length) :
    stageInto area r = none := by
  rw [stageInto_absent absent, if_neg (Nat.not_lt.2 (by exact full))]

/-- Records of other targets stay as they are when one is replaced. -/
theorem map_replace_other {l : List Staged} (other : ∀ y ∈ l, sameRecordTarget r y = false) :
    l.map (fun x => if sameRecordTarget r x then r else x) = l := by
  refine (List.map_congr_left fun y hy => ?_).trans (List.map_id l)
  rw [other y hy]
  rfl

theorem stageInto_replace {x : Staged} {a b : List Staged} (split : area = a ++ [x] ++ b)
    (same : sameRecordTarget r x = true) (other : ∀ y ∈ a ++ b, sameRecordTarget r y = false) :
    stageInto area r = some (a ++ [r] ++ b) := by
  have before : ∀ y ∈ a, sameRecordTarget r y = false := fun y hy => other y (List.mem_append_left b hy)
  have behind : ∀ y ∈ b, sameRecordTarget r y = false := fun y hy => other y (List.mem_append_right a hy)
  have target : area.any (sameRecordTarget r) = true := List.any_eq_true.2 ⟨x, by simp [split], same⟩
  rw [stageInto, if_pos target, split, List.map_append, List.map_append, map_replace_other before, map_replace_other behind,
    List.map_singleton, if_pos same]

end

/-- A request of the holder that writes the staging area alone (R132, R138, R139). -/
theorem TakesAtOnce.restages (h : TakesAtOnce s m t) (holder : s.holds m = true) (op : s.op = .idle) (ask : Asks m t c q)
    (known : ∀ x, q ≠ .unknown x) (args : argumentsOk q = true) (area : List Staged) (code : Byte) (st : Status)
    (execute : ∀ fr, (s.judgedFrom m fr).execute m t q =
      State.answer { s.judgedFrom m fr with staging := area } m t code st []) :
    Answers c s (fun u => AgentOnly { s with staging := area } u ∧ Responded s u t [code, statusCode st]) :=
  h.effects holder op ask known args { s with staging := area } rfl rfl rfl code st (results := []) (by decide)
    fun fr _ => execute fr

/-! ### STAGE_ENTRY (R138) -/

/-- The configuration that a STAGE_ENTRY brings, when one is present (Table 12-3). -/
def fieldsGiven (present : Byte) (rec : EntryRecord) : Option EntryFields :=
  if present = 1#8 then some (entryFields rec) else none

section
variable {slot action present : Byte} {rec : EntryRecord} {k : Fin 64} {act : Action}

section
variable (code : actionOfCode action = some act)
include code

/-- Check 1 of a STAGE_ENTRY: the configuration. -/
theorem State.runStageEntry_notOk (bad : entryOk act (fieldsGiven present rec) = false) :
    s.runStageEntry slot action present rec = ⟨s, .badArgument, []⟩ := by
  unfold fieldsGiven at bad
  simp only [State.runStageEntry, code, bad, if_true]

variable (named : slot.toNat = k.val)
include named

/-- Check 2: the lock. -/
theorem State.runStageEntry_locked (ok : entryOk act (fieldsGiven present rec) = true)
    (locked : (refusedByLock act && (s.stream k).any (fun x => x.locked)) = true) :
    s.runStageEntry slot action present rec = ⟨s, .entryLocked, []⟩ := by
  unfold fieldsGiven at ok
  simp only [State.runStageEntry, code, slotOf_eq named, ok, locked, Bool.true_eq_false, if_false, if_true]

/-- Check 3: the room in the area. -/
theorem State.runStageEntry_full (ok : entryOk act (fieldsGiven present rec) = true)
    (unlocked : (refusedByLock act && (s.stream k).any (fun x => x.locked)) = false)
    (full : stageInto s.staging (.entry k act (fieldsGiven present rec)) = none) :
    s.runStageEntry slot action present rec = ⟨s, .stagingFull, []⟩ := by
  unfold fieldsGiven at ok full
  simp only [State.runStageEntry, code, slotOf_eq named, ok, unlocked, full, Bool.true_eq_false, Bool.false_eq_true, if_false]

/-- A record that passes its checks is staged. -/
theorem State.runStageEntry_staged {area : List Staged} (ok : entryOk act (fieldsGiven present rec) = true)
    (unlocked : (refusedByLock act && (s.stream k).any (fun x => x.locked)) = false)
    (staged : stageInto s.staging (.entry k act (fieldsGiven present rec)) = some area) :
    s.runStageEntry slot action present rec = ⟨{ s with staging := area }, .ok, []⟩ := by
  unfold fieldsGiven at ok staged
  simp only [State.runStageEntry, code, slotOf_eq named, ok, unlocked, staged, Bool.true_eq_false, Bool.false_eq_true, if_false]

end

theorem argumentsOk_stageEntry : argumentsOk (.stageEntry slot action present rec) = true ↔
    slot.toNat ≤ 63 ∧ actionOfCode action ≠ none ∧ present.toNat ≤ 1 := by
  simp [argumentsOk, Option.isSome_iff_ne_none, and_assoc]

/-- A STAGE_ENTRY whose arguments are in range is answered as its checks say. -/
theorem TakesAtOnce.stageEntry_answers (h : TakesAtOnce s m t) (holder : s.holds m = true) (op : s.op = .idle)
    (named : slot.toNat = k.val) (code : actionOfCode action = some act) (flag : present.toNat ≤ 1)
    (area : List Staged) (st : Status) (run : ∀ fr, (s.judgedFrom m fr).runStageEntry slot action present rec =
      ⟨{ s.judgedFrom m fr with staging := area }, st, []⟩) :
    Answers (.stageEntry m t slot action present rec) s (fun u =>
      AgentOnly { s with staging := area } u ∧ Responded s u t [8#8, statusCode st]) := by
  have args : argumentsOk (.stageEntry slot action present rec) = true :=
    argumentsOk_stageEntry.2 ⟨by omega, by rw [code]; exact Option.some_ne_none act, flag⟩
  refine h.restages holder op (.stageEntry slot action present rec) nofun args area 8#8 st fun fr => ?_
  rw [State.execute, run fr, Reply.answer]

/-- A new record joins the end of the area, replaces the record of its slot, or finds the area full. -/
theorem TakesAtOnce.stageEntry_checked (h : TakesAtOnce s m t) (holder : s.holds m = true) (op : s.op = .idle)
    (named : slot.toNat = k.val) (code : actionOfCode action = some act) (flag : present.toNat ≤ 1)
    (ok : entryOk act (fieldsGiven present rec) = true)
    (unlocked : (refusedByLock act && (s.stream k).any (fun x => x.locked)) = false) :
    (∀ area, stageInto s.staging (.entry k act (fieldsGiven present rec)) = some area →
      Answers (.stageEntry m t slot action present rec) s (fun u =>
        AgentOnly { s with staging := area } u ∧ Responded s u t [8#8, 0#8])) ∧
    (stageInto s.staging (.entry k act (fieldsGiven present rec)) = none →
      Answers (.stageEntry m t slot action present rec) s (fun u => AgentOnly s u ∧ Responded s u t [8#8, 5#8])) := by
  exact ⟨fun area staged => h.stageEntry_answers holder op named code flag area .ok fun _ =>
      State.runStageEntry_staged code named ok unlocked staged,
    fun full => h.stageEntry_answers holder op named code flag s.staging .stagingFull fun _ =>
      State.runStageEntry_full code named ok unlocked full⟩

/-- An argument out of its range is refused before the checks (R120, step 6). -/
theorem TakesAtOnce.stageEntry_badArgument (h : TakesAtOnce s m t) (holder : s.holds m = true) (op : s.op = .idle)
    (bad : 63 < slot.toNat ∨ actionOfCode action = none ∨ 1 < present.toNat) :
    Answers (.stageEntry m t slot action present rec) s (fun u => AgentOnly s u ∧ Responded s u t [8#8, 7#8]) := by
  have args : argumentsOk (.stageEntry slot action present rec) = false := by
    rw [← Bool.not_eq_true, argumentsOk_stageEntry]
    rintro ⟨inside, action, flag⟩
    rcases bad with slot | none | high
    · omega
    · exact action none
    · omega
  refine (h.refused (.stageEntry slot action present rec) (st := .badArgument) fun fr => ?_).imp
    fun w ⟨only, _, responded⟩ => ⟨only, responded⟩
  exact State.refusal_badArgument nofun op ((s.judgedFrom_holds m fr).trans holder) args

end

/-! ### STAGE_GLOBALS (R139) -/

theorem TakesAtOnce.stageGlobals_answers (h : TakesAtOnce s m t) (holder : s.holds m = true) (op : s.op = .idle)
    (rec : GlobalsRecord) :
    (globalsOk (globalsFields rec) = false →
      Answers (.stageGlobals m t rec) s (fun u => AgentOnly s u ∧ Responded s u t [9#8, 7#8])) ∧
    (globalsOk (globalsFields rec) = true →
      (∀ area, stageInto s.staging (.globals (globalsFields rec)) = some area →
        Answers (.stageGlobals m t rec) s (fun u =>
          AgentOnly { s with staging := area } u ∧ Responded s u t [9#8, 0#8])) ∧
      (stageInto s.staging (.globals (globalsFields rec)) = none →
        Answers (.stageGlobals m t rec) s (fun u => AgentOnly s u ∧ Responded s u t [9#8, 5#8]))) := by
  refine ⟨fun bad => ?_, fun ok => ⟨fun area staged => ?_, fun full => ?_⟩⟩
  · refine h.restages holder op (.stageGlobals rec) nofun rfl s.staging 9#8 .badArgument fun fr => ?_
    rw [State.execute, State.runStageGlobals, if_pos bad]
    rfl
  · refine h.restages holder op (.stageGlobals rec) nofun rfl area 9#8 .ok fun fr => ?_
    have into : stageInto (s.judgedFrom m fr).staging (.globals (globalsFields rec)) = some area := staged
    simp only [State.execute, State.runStageGlobals, ok, into]
    rfl
  · refine h.restages holder op (.stageGlobals rec) nofun rfl s.staging 9#8 .stagingFull fun fr => ?_
    have into : stageInto (s.judgedFrom m fr).staging (.globals (globalsFields rec)) = none := full
    simp only [State.execute, State.runStageGlobals, ok, into]
    rfl

theorem refusedByLock_of_action {act : Action} (h : act = .modify ∨ act = .retire ∨ act = .suspend ∨ act = .resume) :
    refusedByLock act = true := by
  rcases h with rfl | rfl | rfl | rfl <;> rfl

/-- Settles O39. -/
theorem staging : Obligations.Staging := by
  intro s m t h holder op
  refine ⟨fun slot action present k act rec named code flag ok unlocked => ?_,
    fun slot action present rec => ⟨h.stageEntry_badArgument holder op, fun k act named code flag => ⟨fun bad => ?_,
      fun ok acts locked => ?_⟩⟩, fun rec ok absent room => ?_, fun rec ok => ?_, fun rec bad => ?_, ?_⟩
  · obtain ⟨staged, full⟩ := h.stageEntry_checked holder op named code flag ok unlocked
    exact ⟨fun absent room => staged _ (stageInto_append absent room),
      fun a x b split same other => staged _ (stageInto_replace split same other),
      fun absent limit => full (stageInto_full absent limit)⟩
  · exact h.stageEntry_answers holder op named code flag s.staging .badArgument fun fr =>
      State.runStageEntry_notOk code bad
  · exact h.stageEntry_answers holder op named code flag s.staging .entryLocked fun fr =>
      State.runStageEntry_locked code named ok (Bool.and_eq_true_iff.2 ⟨refusedByLock_of_action acts, locked⟩)
  · exact ((h.stageGlobals_answers holder op rec).2 ok).1 _ (stageInto_append absent room)
  · obtain ⟨staged, full⟩ := (h.stageGlobals_answers holder op rec).2 ok
    exact ⟨fun a x b split same other => staged _ (stageInto_replace split same other),
      fun absent limit => full (stageInto_full absent limit)⟩
  · exact (h.stageGlobals_answers holder op rec).1 bad
  · exact h.restages holder op .discardStaging nofun rfl [] 11#8 .ok fun _ => rfl

end Sys2Proof.Machine
end

section
/-! SUPPORT. COMMIT, SAVE_IMAGE and SEAL_IMAGE: the operations they begin and the bank a save or seal writes: O40 (R122, R124,
R133, R141, R166, R170, R173). -/

namespace Sys2Proof.Machine

variable {s : State} {m t : Word16} {c : Instr} {q : Request}

/-! ### Operations begun and refused (R124, R133) -/

/-- An operation that the holder begins: the lease timer stops, and nothing else is changed besides its answer STARTED. -/
theorem TakesAtOnce.begins (h : TakesAtOnce s m t) (holder : s.holds m = true) (op : s.op = .idle) (ask : Asks m t c q)
    (known : ∀ x, q ≠ .unknown x) (args : argumentsOk q = true) (o : Operation) (code : Byte)
    (execute : ∀ fr, (s.judgedFrom m fr).execute m t q =
      ((s.judgedFrom m fr).beginOperation o).answer m t code .started []) :
    Answers c s (fun u => AgentOnly { s with op := o } u ∧ u.agent.lease = some ⟨m, none⟩ ∧
      Responded s u t [code, 1#8]) := by
  obtain ⟨timer, held⟩ := State.holds_iff.1 holder
  have turn : InTurn { s with op := o } { s.turnOf m with lease := some ⟨m, none⟩ } :=
    ⟨rfl, rfl, rfl, (congrArg (Option.map fun l => l.holder) held).symm⟩
  have stopped : ∀ fr, (s.judgedFrom m fr).beginOperation o =
      State.inTurn { s with op := o } { s.turnOf m with lease := some ⟨m, none⟩ } fr := fun fr => by
    simp only [State.beginOperation, State.stopLease, State.judgedFrom, State.leaseTouched_own held]
    rfl
  refine (h.executed ask (State.judgedFrom_allows holder op known args) turn rfl rfl code .started (results := []) (by decide)
    fun fr _ => ?_).imp fun w ⟨only, agent, responded⟩ => ⟨only, by rw [agent, Agent.answered_lease], responded⟩
  rw [execute fr, stopped fr]

/-- An operation that is refused changes nothing. -/
theorem TakesAtOnce.beginsNothing (h : TakesAtOnce s m t) (holder : s.holds m = true) (op : s.op = .idle) (ask : Asks m t c q)
    (known : ∀ x, q ≠ .unknown x) (args : argumentsOk q = true) (code : Byte) (st : Status)
    (execute : ∀ fr, (s.judgedFrom m fr).execute m t q = (s.judgedFrom m fr).answer m t code st []) :
    Answers c s (fun u => AgentOnly s u ∧ Responded s u t [code, statusCode st]) :=
  h.effects holder op ask known args s rfl rfl rfl code st (results := []) (by decide) fun fr _ => execute fr

/-! ### The bank that a save or a seal writes (R166, R170, R173) -/

/-- The 17 bytes of a slot in a bank: state, configuration, and a byte 00h (Table 12-9). -/
theorem slotImage_some (st : Stream) : slotImage (some st) =
    [if st.suspended = true then 2#8 else 1#8] ++ be16 (st.cfg.fieldId.setWidth 16) ++ be16 (st.cfg.lineId.setWidth 16) ++
      [partSizeByte st.cfg.size, policyCode st.cfg.policy] ++ be16 st.cfg.twinWait ++ be16 st.cfg.jumpLimit ++
      [st.cfg.resyncRun, st.cfg.pathTimeout, BitVec.ofNat 8 st.cfg.cls.val, st.cfg.burst, st.cfg.interval, 0#8] := by
  have state : slotStateCode (if st.suspended = true then .suspended else .active) =
      if st.suspended = true then 2#8 else 1#8 := by cases st.suspended <;> rfl
  rw [slotImage, state]
  rfl

/-- What a save writes stands at the places of Table 12-9: the first 17 bytes, then 17 for each slot. -/
theorem State.liveContent_layout (s : State) (n : Word32) (mark : Byte) :
    (s.liveContent n mark).take 17 = be32 n ++ [mark] ++ be16 (s.globals.station.setWidth 16) ++
        s.globals.limits.toList.flatMap be16 ++ [s.globals.leaseTimeout, s.globals.enables.setWidth 8] ∧
      ∀ k : Fin 64, ((s.liveContent n mark).drop (17 + 17 * k.val)).take 17 = slotImage (s.stream k) := by
  have front : (be32 n ++ [mark] ++ idBytes s.globals.station ++ s.globals.limits.toList.flatMap be16 ++
      [s.globals.leaseTimeout, s.globals.enables.setWidth 8]).length = 17 := by
    simp [length_flatMap_const length_be16]
  refine ⟨List.take_left' front, fun k => ?_⟩
  have block := take_drop_flatMap (fun k => length_slotImage (s.stream k)) allSlots [] k.val
    (by rw [length_allSlots]; exact k.isLt)
  rw [List.append_nil, getElem_allSlots] at block
  rw [State.liveContent, ← List.drop_drop, List.drop_left' front, block]

@[simp] theorem State.saveJob_saveCount (s : State) (m : Word16) : (s.saveJob m).saveCount = nextSaveCount s.banks := by
  rw [State.saveJob]

@[simp] theorem State.sealJob_saveCount (s : State) (m : Word16) : (s.sealJob m).saveCount = nextSaveCount s.banks := by
  rw [State.sealJob]

@[simp] theorem State.saveJob_target (s : State) (m : Word16) : (s.saveJob m).target = targetBank s.banks := by
  rw [State.saveJob]

@[simp] theorem State.sealJob_target (s : State) (m : Word16) : (s.sealJob m).target = targetBank s.banks := by
  rw [State.sealJob]

/-- Target and count of a save or seal, by the newest valid bank (R170). -/
theorem targetBank_spec (b : PerBank Memory) : (newestBank b = none → targetBank b = .a ∧ nextSaveCount b = 1#32) ∧
    ∀ x, newestBank b = some x → targetBank b = otherBank x ∧ nextSaveCount b = (b.get x).saveCount + 1 := by
  unfold targetBank nextSaveCount
  refine ⟨fun blank => ⟨?_, ?_⟩, fun x newest => ⟨?_, ?_⟩⟩
  · rw [blank]
  · rw [blank]
  · rw [newest]
  · rw [newest]

/-- What a seal writes is the source's content with its count and its mark replaced (R173). -/
theorem sealedContent_eq (source : Memory) (n : Word32) :
    sealedContent source n = be32 n ++ [1#8] ++ (source.bytes.take 1105).drop 5 := by
  rw [sealedContent, contentSize]

/-- A seal copies from the newest valid bank (R173). -/
theorem State.sealJob_bytes {bk : BankId} (newest : newestBank s.banks = some bk) (m : Word16) : (s.sealJob m).bytes =
    withCheckWord (sealedContent (s.banks.get bk) (nextSaveCount s.banks)) := by
  rw [State.sealJob, otherBank_targetBank newest]

/-- Settles O40. -/
theorem operationsBegin : Obligations.OperationsBegin := by
  refine ⟨fun s m t h holder op => ⟨fun staged => ?_, fun empty => ?_, fun unsealed => ?_,
    fun isSealed => ⟨?_, ?_⟩, fun valid => ?_, fun invalid => ?_⟩,
    fun s m => ⟨fun j job => ?_, ⟨s.liveContent (nextSaveCount s.banks) 0#8, rfl, length_liveContent _ _ _, ?_, fun k => ?_⟩,
      fun bk newest => ⟨sealedContent (s.banks.get bk) (nextSaveCount s.banks), s.sealJob_bytes newest m, ?_⟩⟩⟩
  · refine h.begins holder op .commit nofun rfl (.commit s.staging m) 12#8 fun fr => ?_
    have area : ¬ (s.judgedFrom m fr).staging.isEmpty = true := fun e => staged (List.isEmpty_iff.1 e)
    rw [State.execute, State.runCommit, if_neg area]
    rfl
  · refine h.beginsNothing holder op .commit nofun rfl 12#8 .nothingStaged fun fr => ?_
    have area : (s.judgedFrom m fr).staging.isEmpty = true := List.isEmpty_iff.2 empty
    rw [State.execute, State.runCommit, if_pos area]
    rfl
  · refine h.begins holder op .saveImage nofun rfl (.save (s.saveJob m)) 13#8 fun fr => ?_
    have image : (s.judgedFrom m fr).imageState ≠ .sealed := unsealed
    rw [State.execute, State.runSaveImage, if_neg image]
    rfl
  · refine h.beginsNothing holder op .saveImage nofun rfl 13#8 .imageSealed fun fr => ?_
    have image : (s.judgedFrom m fr).imageState = .sealed := isSealed
    rw [State.execute, State.runSaveImage, if_pos image]
    rfl
  · refine h.beginsNothing holder op .sealImage nofun rfl 14#8 .imageSealed fun fr => ?_
    have image : (s.judgedFrom m fr).imageState = .sealed := isSealed
    rw [State.execute, State.runSealImage, image]
    rfl
  · refine h.begins holder op .sealImage nofun rfl (.seal (s.sealJob m)) 14#8 fun fr => ?_
    have image : (s.judgedFrom m fr).imageState = .valid := valid
    rw [State.execute, State.runSealImage, image]
    rfl
  · refine h.beginsNothing holder op .sealImage nofun rfl 14#8 .imageNotValid fun fr => ?_
    have image : (s.judgedFrom m fr).imageState = .blank ∨ (s.judgedFrom m fr).imageState = .corrupt := invalid
    rcases image with image | image
    all_goals
      rw [State.execute, State.runSealImage, image]
      rfl
  · have begun : j.phase = .erase ∧ j.manager = m ∧ j.target = targetBank s.banks ∧ j.saveCount = nextSaveCount s.banks := by
      rcases job with rfl | rfl
      · exact ⟨rfl, rfl, s.saveJob_target m, s.saveJob_saveCount m⟩
      · exact ⟨rfl, rfl, s.sealJob_target m, s.sealJob_saveCount m⟩
    obtain ⟨phase, manager, target, count⟩ := begun
    rw [target, count]
    exact ⟨phase, manager, targetBank_spec s.banks⟩
  · rw [s.saveJob_saveCount]
    exact (s.liveContent_layout (nextSaveCount s.banks) 0#8).1
  · rw [(s.liveContent_layout (nextSaveCount s.banks) 0#8).2 k]
    cases s.stream k with
    | none => rfl
    | some st => exact slotImage_some st
  · rw [s.sealJob_saveCount]
    exact sealedContent_eq _ _

end Sys2Proof.Machine
end

section
/-! SUPPORT. The response cache, and responses without room: O42 (R108, R120, R121). -/

namespace Sys2Proof.Machine

variable {s : State} {m t : Word16} {c : Instr} {q : Request} {content : List Byte}

/-! ### A repeated tag (R121) -/

/-- The cached response of the holder is placed again, or dropped; nothing is executed, and the cache stands. -/
theorem AgentIdle.repeats (h : AgentIdle s) (one : 1 ≤ s.free.length) (ask : Asks m t c q)
    (cached : s.cachedFor m t = some content) :
    (s.Fits content → Answers c s (fun u =>
      AgentOnly s u ∧ u.agent.cache = s.agent.cache ∧ Responded s u t content)) ∧
    (¬ s.Fits content → Answers c s (fun u =>
      AgentOnly (s.bumpGlobal .responseDropped) u ∧ u.agent.cache = s.agent.cache)) := by
  obtain ⟨fr, same, e⟩ := h.exec_judge one ask
  have turn : InTurn s (s.turnOf m) := .turnOf rfl
  have only : AgentOnly s (s.judgedFrom m fr) := turn.agentOnly fr
  have cache : ((s.judgedFrom m fr).place t content).settle.agent.cache = s.agent.cache := by
    rw [State.settle_agent, State.place_agent]
    rfl
  rw [State.judge_cached ((s.judgedFrom_cachedFor m t fr).trans cached)] at e
  refine ⟨fun fits => ?_, fun full => ?_⟩
  · have room : (s.judgedFrom m fr).Fits content := ⟨fits.1, fits.2.trans_eq same.symm⟩
    obtain ⟨x, way, bytes⟩ := room.responded (s := s) (t := t) rfl
    exact ⟨_, e, (only.place room t).settle, cache, x, way.settle, bytes⟩
  · have nowhere : ¬ (s.judgedFrom m fr).Fits content := fun room => full ⟨room.1, room.2.trans_eq same⟩
    exact ⟨_, e, (only.place_dropped nowhere t).settle, cache⟩

/-! ### Fresh requests (R108) -/

/-- IDENTIFY under a fresh tag is answered with the identity as it stood. -/
theorem State.judge_identify (fresh : s.cachedFor m t = none) (fr : List CellId) :
    (s.judgedFrom m fr).judge m t .identify = (s.inTurn (s.turnOf m) fr).answer m t 1#8 .ok s.identifyResults := by
  rw [State.judge_executed ((s.judgedFrom_cachedFor m t fr).trans fresh)
    (State.refusal_passes (r := .identify) nofun (fun _ => rfl) rfl rfl), State.execute, State.identifyResults_judgedFrom]
  rfl

/-- So is page 0 of READ_PORT_COUNTERS without the clear. -/
theorem State.judge_readPortCounters (fresh : s.cachedFor m t = none) {fr : List CellId} (same : fr.length = s.free.length) :
    (s.judgedFrom m fr).judge m t (.readPortCounters 0#8 0#8) =
      (s.inTurn (s.turnOf m) fr).answer m t 6#8 .ok (s.portCounterResults 0#8) := by
  rw [State.judge_executed ((s.judgedFrom_cachedFor m t fr).trans fresh)
    (State.refusal_passes (r := .readPortCounters 0#8 0#8) nofun (fun _ => rfl) rfl rfl), State.execute,
    State.runReadPortCounters, if_pos rfl, Reply.answer, State.portCounterResults_judgedFrom s m same]
  rfl

/-- READ_FAULTS of the holder removes what it reports before its response is placed (R131). -/
theorem State.judge_readFaults (fresh : s.cachedFor m t = none) (holder : s.holds m = true) (op : s.op = .idle) {n : Byte}
    (low : 1 ≤ n.toNat) (high : n.toNat ≤ 6) (fr : List CellId) : (s.judgedFrom m fr).judge m t (.readFaults n) =
      (State.inTurn { s with faults := s.faults.drop n.toNat, overflow := 0#16 } (s.turnOf m) fr).answer m t 7#8 .ok
        (s.faultResults n.toNat) := by
  rw [State.judge_executed ((s.judgedFrom_cachedFor m t fr).trans fresh)
    (State.judgedFrom_allows (q := .readFaults n) holder op nofun (by simp [argumentsOk, low, high]) fr)]
  rfl

theorem responseCells_identify (s : State) : responseCells (responsePayload 1#8 .ok s.identifyResults) = 1 := by
  rw [responseCells_eq, length_responsePayload, length_identifyResults]
  decide

/-- The response to page 0 of READ_PORT_COUNTERS takes three cells (R107, R130). -/
theorem responseCells_portCounters (s : State) : responseCells (responsePayload 6#8 .ok (s.portCounterResults 0#8)) = 3 := by
  have length : (s.portCounterResults 0#8).length = 106 := by
    simp [State.portCounterResults, length_counterBytes, length_poolView]
  rw [responseCells_eq, length_responsePayload, length]
  decide

theorem one_le_responseCells (payload : List Byte) : 1 ≤ responseCells payload := by
  rw [responseCells_eq]
  omega

/-- Settles O42. -/
theorem responseCache : Obligations.ResponseCache := by
  refine ⟨fun s m t c q content h ask holder cache => ?repeated, fun s m t h fresh one => ?fresh⟩
  case repeated =>
    have cached : s.cachedFor m t = some content := by
      rw [State.cachedFor, cache]
      simp [holder]
    rw [← responseCells_eq]
    refine ⟨fun lane free => ?_, fun full one => ?_⟩
    · exact (h.repeats ((one_le_responseCells content).trans free) ask cached).1 ⟨lane, free⟩
    · refine (h.repeats one ask cached).2 ?_
      rintro ⟨lane, free⟩
      omega
  case fresh =>
    have identify := responseCells_identify s
    have turn : InTurn s (s.turnOf m) := .turnOf rfl
    refine ⟨fun room => ?_, fun full => ?_, fun few => ?_, fun full holder op n low high => ?_⟩
    · exact (h.answers one .identify turn rfl (fun fr _ => State.judge_identify fresh fr)
        ⟨by rw [identify]; exact room, by rw [identify]; exact one⟩).imp fun w ⟨only, _, responded⟩ => ⟨only, responded⟩
    · refine (h.answers_dropped one .identify turn (fun fr _ => State.judge_identify fresh fr) ?_).imp
        fun w ⟨only, agent⟩ => ⟨only, fun holder => ?_⟩
      · rintro ⟨lane, -⟩
        rw [identify] at lane
        exact absurd (lane.trans full) (Nat.not_succ_le_self _)
      · rw [agent, holder]
        rfl
    · refine (h.answers_dropped one (.readPortCounters 0#8 0#8) turn
        (fun fr same => State.judge_readPortCounters fresh same) ?_).imp fun w ⟨only, agent⟩ => ⟨only, fun holder => ?_⟩
      · rintro ⟨-, free⟩
        rw [responseCells_portCounters] at free
        exact absurd (free.trans few) (by decide)
      · rw [agent, holder]
        rfl
    · have removed : InTurn { s with faults := s.faults.drop n.toNat, overflow := 0#16 } (s.turnOf m) := .turnOf rfl
      refine (h.answers_dropped one (.readFaults n) removed
        (fun fr _ => State.judge_readFaults fresh holder op low high fr) ?_).imp fun w ⟨only, agent⟩ => ⟨only, ?_⟩
      · rintro ⟨lane, -⟩
        have cells := one_le_responseCells (responsePayload 7#8 .ok (s.faultResults n.toNat))
        have lane' : cellCount s.lane + responseCells (responsePayload 7#8 .ok (s.faultResults n.toNat)) ≤ 16 := lane
        omega
      · have holds : State.holds { s with faults := s.faults.drop n.toNat, overflow := 0#16 } m = true := holder
        rw [agent, holds]
        rfl

end Sys2Proof.Machine
end

section
/-! SUPPORT. The commit end of a set that fails validation: O46 (R144). -/

namespace Sys2Proof.Machine

/-- The commit end of a set that fails validation applies no record: the operation ends and its COMMIT_DONE is raised (R144). -/
theorem State.endCommit_rejected {s : State} {l : List Staged} {i : Nat} {reason : CommitReason}
    (hv : s.validate l = .rejected i reason) (m : Word16) :
    s.endCommit l m = s.endOperation.raiseNotice (.commitDone (.rejected i reason) s.generation l.length m) := by
  simp only [State.endCommit, hv]
  rfl

/-- Settles O46: the rejecting commit end is the end of the operation and its notice. -/
theorem rejectedCommitEnd : Obligations.RejectedCommitEnd := by
  intro s l m i reason hp ho hv
  have ends := commitEnd_settles hp ho
  rwa [State.endCommit_rejected hv, State.endOperation_eq] at ends

end Sys2Proof.Machine
end

section
/-! SUPPORT. The end of the start-up load, part by part, and O7 (R66, R68, R87, R154, R168). -/

namespace Sys2Proof.Machine

/-! ### The stamp of the load's fault (R154; log 9) -/

/-- The kinds a start-up load raises are the two bank faults (R168). -/
theorem raisedByLoad_iff (k : FaultKind) : raisedByLoad k = true ↔ k = .imageBankBad ∨ k = .imageCorrupt := by
  cases k <;> simp [raisedByLoad]

theorem FaultRecord.stampLoad_eq (time : Word32) (f : FaultRecord) : f.stampLoad time =
    if f.kind = .imageBankBad ∨ f.kind = .imageCorrupt then { f with firstTime := time, lastTime := time } else f := by
  simp only [FaultRecord.stampLoad, raisedByLoad_iff]

/-- The end of the load stamps the load's fault within the load (R154, R168). -/
theorem State.endLoad_faults (s : State) :
    ∃ time : Word32, time.toNat ≤ 4 ∧ time.toNat ≤ s.count.toNat ∧
      s.endLoad.faults = s.faults.map (FaultRecord.stampLoad time) := by
  obtain ⟨time, fx, within, past, stamped⟩ := s.stampLoadFault_spec
  refine ⟨time, within, past, ?_⟩
  unfold State.endLoad
  rw [State.detect_spec, State.detect_spec, State.detect_spec, stamped]
  rfl

/-! ### Timers and links (R66, R68, R87) -/

/-- Stamping leaves the ports alone. -/
theorem State.stampLoadFault_port (s : State) (p : Port) : s.stampLoadFault.port p = s.port p := by
  obtain ⟨time, fx, -, -, stamped⟩ := s.stampLoadFault_spec
  rw [stamped]
  rfl

/-- Stamping leaves the slots alone. -/
theorem State.stampLoadFault_stream (s : State) (k : Fin 64) : s.stampLoadFault.stream k = s.stream k := by
  obtain ⟨time, fx, -, -, stamped⟩ := s.stampLoadFault_spec
  rw [stamped]
  rfl

/-- The end of the load starts every slot's interval timer afresh (R68). -/
theorem State.endLoad_stream (s : State) (k : Fin 64) : s.endLoad.stream k = (s.stream k).map Stream.startTimer := by
  unfold State.endLoad
  rw [State.detect_stream, State.detect_stream, State.detect_stream, State.stream_mapAllStreams]
  exact congrArg (Option.map Stream.startTimer) (s.stampLoadFault_stream k)

/-- Each port that is DOWN when the load ends detects its signal, undisturbed by the other two (R87). -/
theorem State.endLoad_port {s : State} {p : Port} (down : (s.port p).link = .down) : s.endLoad.port p =
    { s.port p with link := if (s.port p).signal = true then .aligning 0 false false else .down } := by
  have started : State.port (({ s.stampLoadFault with phase := .running }).mapAllStreams Stream.startTimer) p = s.port p :=
    s.stampLoadFault_port p
  unfold State.endLoad
  cases p
  case f0 =>
    rw [State.detect_port_other _ (by decide), State.detect_port_other _ (by decide),
      State.detect_port_down rfl (by rw [started]; exact down), started]
  case f1 =>
    have other := (State.detect_port_other _ (by decide : Port.f1 ≠ .f0)).trans started
    rw [State.detect_port_other _ (by decide), State.detect_port_down (State.detect_phase _ _) (by rw [other]; exact down),
      other]
  case l =>
    have other := ((State.detect_port_other _ (by decide : Port.l ≠ .f1)).trans
      (State.detect_port_other _ (by decide : Port.l ≠ .f0))).trans started
    rw [State.detect_port_down (by rw [State.detect_phase, State.detect_phase]; rfl) (by rw [other]; exact down), other]

/-- A port that was DOWN is not UP when the load ends: alignment is still to come (R88). -/
theorem State.endLoad_linkUp {s : State} {p : Port} (down : (s.port p).link = .down) : s.endLoad.linkUp p = false := by
  rw [State.linkUp, State.endLoad_port down]
  dsimp only
  split <;> rfl

/-- Settles O7: no link is UP yet, so that nothing follows at once and the next state is the end of the load itself. -/
theorem loadEndBegins : Obligations.LoadEndBegins := by
  intro s loading down
  have ends : s.loadEnds = s.endLoad := by
    rw [State.loadEnds, if_pos loading, State.settle_unlinked fun p => State.endLoad_linkUp (down p)]
  refine ⟨s.endLoad, congrArg Host.Outcome.next ends, ?frame, ?stamps, fun k => ?timers, fun p => State.endLoad_port (down p)⟩
  case frame =>
    obtain ⟨sl, po, time, fx, e⟩ := s.endLoad_spec
    rw [e]
  case stamps =>
    obtain ⟨time, within, past, stamped⟩ := s.endLoad_faults
    exact ⟨time, within, past, stamped.trans (List.map_congr_left fun f _ => f.stampLoad_eq time)⟩
  case timers =>
    simp only [State.endLoad_stream, ← startedTimer_eq]
    rfl

end Sys2Proof.Machine
end

section
/-! SUPPORT. What the fault log and the notice queue do with each fault and notice, and O30 (R156, R157, R161). -/

namespace Sys2Proof.Machine

variable {s : State} {f : FaultInfo} {b : NoticeBody} {time : Word32}

/-! ### Faults (R156, R157) -/

theorem mergesWith_iff (r : FaultRecord) (f : FaultInfo) :
    mergesWith r f = true ↔ r.kind = f.kind ∧ r.port = f.port ∧ r.fieldId = f.fieldId := by
  simp only [mergesWith, Bool.and_eq_true, beq_iff_eq, and_assoc]

/-- A fault merges exactly with an equal newest record (R156). -/
theorem mergesNewest_iff (q : List FaultRecord) (f : FaultInfo) :
    mergesNewest q f = true ↔ ∃ r, q.getLast? = some r ∧ r.kind = f.kind ∧ r.port = f.port ∧ r.fieldId = f.fieldId := by
  unfold mergesNewest
  cases q.getLast? <;> simp [mergesWith_iff]

/-- A fault equal to the newest record is counted in it (R156). -/
theorem State.raiseFaultAt_merges {old : List FaultRecord} {r : FaultRecord} (newest : s.faults = old ++ [r])
    (equal : r.kind = f.kind ∧ r.port = f.port ∧ r.fieldId = f.fieldId) :
    s.raiseFaultAt f time = { s with faults := old ++ [mergedRecord r time] } := by
  have last : s.faults.getLast? = some r := by rw [newest, List.getLast?_concat]
  rw [State.raiseFaultAt, if_pos ((mergesNewest_iff _ _).2 ⟨r, last, equal⟩), last, newest, List.dropLast_concat]
  rfl

/-- A fault that does not merge is appended while a place is free; the twelfth record raises FAULTS_PENDING (R156, R157). -/
theorem State.raiseFaultAt_appends (other : mergesNewest s.faults f = false) (room : s.faults.length < faultLimit) :
    s.raiseFaultAt f time =
      if s.faults.length = 11 then State.raiseNotice { s with faults := s.faults ++ [freshRecord f time] } .faultsPending
      else { s with faults := s.faults ++ [freshRecord f time] } := by
  rw [State.raiseFaultAt, if_neg (by rw [other]; decide), if_pos room]

/-- A fault that does not merge counts as overflow in a full log (R156). -/
theorem State.raiseFaultAt_overflows (other : mergesNewest s.faults f = false) (full : faultLimit ≤ s.faults.length) :
    s.raiseFaultAt f time = { s with overflow := satInc 16 s.overflow } := by
  rw [State.raiseFaultAt, if_neg (by rw [other]; decide), if_neg (Nat.not_lt.2 full)]

/-! ### Notices (R161) -/

/-- A notice of a disabled kind leaves no trace (R161). -/
theorem State.raiseNotice_disabled (disabled : noticeEnabled s.globals b = false) : s.raiseNotice b = s := by
  rw [State.raiseNotice, if_neg (by rw [disabled]; decide)]

/-- An enabled notice is queued with the present count while a place is free (R161). -/
theorem State.raiseNotice_queued (enabled : noticeEnabled s.globals b = true) (room : s.notices.length < noticeLimit) :
    s.raiseNotice b = { s with notices := s.notices ++ [⟨b, s.count⟩] } := by
  rw [State.raiseNotice, if_pos enabled, if_pos room]

/-- An enabled notice is counted lost when every place is taken (R161). -/
theorem State.raiseNotice_lost (enabled : noticeEnabled s.globals b = true) (full : noticeLimit ≤ s.notices.length) :
    s.raiseNotice b = State.bumpGlobal { s with noticesLost := satInc 16 s.noticesLost } .noticesLost := by
  rw [State.raiseNotice, if_pos enabled, if_neg (Nat.not_lt.2 full)]

/-- Settles O30: a fault merges, is appended or overflows; a notice is disabled, queued or lost. -/
theorem logTakesFaultsAndNotices : Obligations.LogTakesFaultsAndNotices := by
  refine ⟨fun s f => ⟨fun old r newest kind port fieldId => ?merges, fun distinct => ?_⟩,
    fun s b => ⟨State.raiseNotice_disabled, State.raiseNotice_queued, State.raiseNotice_lost⟩⟩
  case merges => exact State.raiseFaultAt_merges newest ⟨kind, port, fieldId⟩
  have other : mergesNewest s.faults f = false := by
    rw [Bool.eq_false_iff, ne_eq, mergesNewest_iff]
    exact fun ⟨r, last, equal⟩ => distinct r last equal
  refine ⟨fun room below => ?quiet, fun eleven => ?pending, fun full => ?overflows⟩
  case quiet => exact (State.raiseFaultAt_appends other room).trans (if_neg below)
  case pending => exact (State.raiseFaultAt_appends other (by rw [eleven]; decide)).trans (if_pos eleven)
  case overflows => exact State.raiseFaultAt_overflows other full

end Sys2Proof.Machine
end

section
/-! SUPPORT. The retained image through a step: banks in canonical form, and a sealed image that no step changes; O54 and O59 (R165,
R172, R175, R179). -/

namespace Sys2Proof.Machine

variable {s t : State}

/-! ### What the phases of the part and a commit leave of the image -/

/-- A commit end is the end of its operation, and leaves phase, banks and image state alone (R144, R145). -/
theorem State.endCommit_image (s : State) (l : List Staged) (m : Word16) : (s.endCommit l m).op = .idle ∧
    (s.endCommit l m).phase = s.phase ∧ (s.endCommit l m).banks = s.banks ∧ (s.endCommit l m).imageState = s.imageState := by
  obtain ⟨u, same, g, sg, ls, ends, -⟩ := s.endCommit_spec l m
  have c := (State.raiseNotice_step { u with generation := g, staging := sg, op := .idle, agent := { u.agent with lease := ls } }
    (.commitDone (s.validate l) g l.length m)).control
  rw [ends]
  exact ⟨c.op, c.phase.trans same.phase, c.banks.trans same.banks, c.imageState.trans same.imageState⟩

/-! ### Banks in canonical form (R165, R179) -/

/-- A bank replaced by a sound one. -/
theorem Memory.Sound.set {b : PerBank Memory} (h : ∀ bk, (b.get bk).Sound) {m : Memory} (hm : m.Sound) (target bk : BankId) :
    ((b.set target m).get bk).Sound := by
  by_cases e : bk = target
  · subst e
    rw [PerBank.get_set_self]
    exact hm
  · rw [PerBank.get_set_other _ _ e]
    exact h bk

/-- The banks stay sound where they are the same, and the operation is no new save or seal. -/
theorem State.BanksSound.of_same (h : s.BanksSound) (banks : t.banks = s.banks) (op : t.op = s.op) : t.BanksSound :=
  ⟨fun bk => banks ▸ h.bank bk, fun j hj => h.job j (op ▸ hj)⟩

/-- Sound banks are all it takes without a save or seal in progress. -/
theorem State.BanksSound.of_noJob (bank : ∀ bk, (s.banks.get bk).Sound) (noJob : s.op.job? = none) : s.BanksSound :=
  ⟨bank, fun _ hj => by cases noJob.symm.trans hj⟩

/-- Work writes no bank, and a save or seal that it begins has a whole bank to write (R170, R173). -/
theorem State.BanksSound.works (h : s.BanksSound) (w : Works s t) : t.BanksSound := by
  refine ⟨fun bk => w.queue.banks ▸ h.bank bk, fun j hj => ?_⟩
  rcases w.queue.op with same | noJob | ⟨j', begun, whole, -⟩
  · exact h.job j (same ▸ hj)
  · cases noJob.symm.trans hj
  · obtain rfl := Option.some.inj (begun.symm.trans hj)
    exact whole

theorem State.BanksSound.settle (h : s.BanksSound) : s.settle.BanksSound := h.works s.settle_flow.works

/-- A save or seal cut short leaves its target as it is, or with the bytes of a cut bank (R172). -/
theorem State.BanksSound.interrupted (h : s.BanksSound) (bk : BankId) : (s.interrupt.banks.get bk).Sound := by
  cases job : s.op.job? with
  | none =>
    rw [State.interrupt_noJob job]
    exact h.bank bk
  | some j =>
    obtain ⟨m, n, cut, target⟩ := State.interrupt_job job
    have sound : m.Sound := by
      rcases target with ⟨-, bytes⟩ | ⟨-, bytes⟩ <;> rw [bytes]
      · exact h.bank j.target
      · exact sound_cutBank s.freeIx
    rw [cut]
    exact Memory.Sound.set h.bank sound j.target bk

/-- A reset reads the banks and writes none (R168). -/
theorem State.takeReset_banksSound (bank : ∀ bk, (s.banks.get bk).Sound) : s.takeReset.BanksSound := by
  have fresh := s.takeReset_fresh
  exact .of_noJob (by rw [fresh.banks]; exact bank) (by rw [fresh.op]; rfl)

theorem State.BanksSound.endLoad (h : s.BanksSound) : s.endLoad.BanksSound := by
  obtain ⟨sl, po, time, fx, e⟩ := s.endLoad_spec
  exact h.of_same (by rw [e]) (by rw [e])

/-- The erase phase ends with an erased target (R171). -/
theorem State.BanksSound.eraseEnds (h : s.BanksSound) {j : BankJob} (hj : s.op.job? = some j) (hp : j.phase = .erase) :
    s.eraseEnds.BanksSound := by
  rw [State.eraseEnds_spec hj hp]
  refine ⟨Memory.Sound.set h.bank Memory.sound_nil j.target, fun j' hj' => ?_⟩
  obtain rfl := Option.some.inj ((Operation.job?_withJob hj).symm.trans hj')
  exact h.job j hj

/-- The write phase ends with the job's bytes in the target, which fill a bank (R171). -/
theorem State.BanksSound.writeEnds (h : s.BanksSound) {j : BankJob} (hj : s.op.job? = some j) (hp : j.phase = .write) :
    s.writeEnds.BanksSound := by
  rw [State.writeEnds_spec hj hp]
  refine ⟨Memory.Sound.set h.bank (Memory.sound_ofBytes (Nat.le_of_eq (h.job j hj))) j.target, fun j' hj' => ?_⟩
  obtain rfl := Option.some.inj ((Operation.job?_withJob hj).symm.trans hj')
  exact h.job j hj

/-- A read back leaves the target as read, or bad (R171, R174). -/
theorem State.BanksSound.readBackEnds (h : s.BanksSound) (j : BankJob) {misread : List (Nat × Byte)}
    (hm : ∀ c ∈ misread, c.1 < bankSize) (notice : Bool → ImageState → NoticeBody) :
    (s.readBackEnds j misread notice).BanksSound := by
  have asRead : (s.asRead j misread).Sound := Memory.sound_patch (h.bank j.target) hm
  have after : (s.bankAfter j (s.asRead j misread)).Sound := by
    unfold State.bankAfter
    split
    · exact asRead
    · exact sound_failedBank s.freeIx asRead
  obtain ⟨q, o, n, l, g, ls, fx, e⟩ := s.readBackEnds_spec j misread notice
  rw [e]
  exact .of_noJob (Memory.Sound.set h.bank after j.target) rfl

/-- Every happening keeps the banks sound. -/
theorem State.BanksSound.happening (h : s.BanksSound) (c : Happening s t) : t.BanksSound := by
  cases c with
  | works w => exact h.works w
  | fullReset u w e => exact e ▸ State.takeReset_banksSound (h.works w).bank
  | reset low e => exact e ▸ State.takeReset_banksSound (s := { s.interrupt with rstnLow := low }) h.interrupted
  | cleared ph hp low e => exact e ▸ .of_noJob (s := { s.interrupt.cleared ph with rstnLow := low }) h.interrupted rfl
  | loadEnd hp e => exact e ▸ h.endLoad.settle
  | commitEnd l m ho e =>
    obtain ⟨op, -, banks, -⟩ := s.endCommit_image l m
    have ended : (s.endCommit l m).BanksSound := .of_noJob (fun bk => banks ▸ h.bank bk) (by rw [op]; rfl)
    exact e ▸ ended.settle
  | eraseEnd j hj hp e => exact e ▸ (h.eraseEnds hj hp).settle
  | writeEnd j hj hp e => exact e ▸ (h.writeEnds hj hp).settle
  | readBackEnd j hj hp misread hm notice e => exact e ▸ (h.readBackEnds j hm notice).settle

/-- Settles O54: every kind of happening keeps the banks sound. -/
theorem banksKept : Obligations.BanksKept := by
  intro s t h e
  rcases step_happening e with rfl | ⟨rest, c⟩
  · exact h
  · have front : State.BanksSound { s with pending := rest } := { h with }
    exact front.happening c

/-! ### A part that does not run begins no operation -/

theorem State.takeReset_op (s : State) : s.takeReset.op = .idle := s.takeReset_fresh.op

/-- A command that finds the part off, held or in its load begins no operation: a reset ends the one in progress, and every other
row leaves it (R119, R168; log 4). -/
theorem exec_stopped_op {c : Instr} (stopped : s.phase ≠ .running) (h : exec c s = .next t) : t.op = s.op ∨ t.op = .idle := by
  have answers : ∀ {u : State}, exec c s = .next u → u.op = s.op ∨ u.op = .idle → t.op = s.op ∨ t.op = .idle :=
    fun e hu => Host.Outcome.next.inj (h.symm.trans e) ▸ hu
  have idles : ∀ {f : State → State} {v : State}, exec c s = .next (whenRunning f v) → v.phase = s.phase → v.op = s.op →
      t.op = s.op ∨ t.op = .idle := fun e phase op => by
    rw [whenRunning_stopped (phase ▸ stopped)] at e
    exact answers e (.inl op)
  cases c with
  | powerOn =>
    refine answers (u := s.powerUp) rfl (.inr ?_)
    unfold State.powerUp
    split
    · rfl
    · exact State.takeReset_op _
  | powerLoss => exact answers rfl (.inr rfl)
  | rstnAsserted =>
    refine answers (u := s.assertReset) rfl ?_
    unfold State.assertReset
    split
    · exact .inl rfl
    · exact .inr rfl
  | pinReset lowNs =>
    refine answers (u := s.releaseReset lowNs) rfl ?_
    unfold State.releaseReset
    split
    · exact .inl rfl
    · split
      · exact .inr (State.takeReset_op _)
      · exact .inl rfl
  | startUpLoadEnd =>
    refine answers (u := s.loadEnds) rfl (.inl ?_)
    unfold State.loadEnds
    split
    · obtain ⟨sl, po, time, fx, e⟩ := s.endLoad_spec
      rw [s.endLoad.settle_step.control.op, e]
    · rfl
  | millisecondCountTick =>
    refine answers (u := s.tick) rfl (.inl ?_)
    unfold State.tick
    split <;> rfl
  | saveEnd misread =>
    cases hm : badAddress misread with
    | some a => simp [exec, execSaveEnd, hm] at h
    | none => exact idles (f := fun s => s.saveEnds misread) (by simp only [exec, execSaveEnd, hm]) rfl rfl
  | sealEnd misread =>
    cases hm : badAddress misread with
    | some a => simp [exec, execSealEnd, hm] at h
    | none => exact idles (f := fun s => s.sealEnds misread) (by simp only [exec, execSealEnd, hm]) rfl rfl
  | _ => exact idles rfl rfl rfl

/-! ### A sealed image (R175) -/

/-- The image stays sealed where banks, phase and kept image state are the same and no save or seal is in progress. -/
theorem State.SealedImage.of_same (h : s.SealedImage) (phase : t.phase = s.phase) (banks : t.banks = s.banks)
    (image : t.imageState = s.imageState) (noJob : t.op.job? = none) : t.SealedImage :=
  ⟨banks ▸ h.banks, noJob, fun hp => image.trans (h.kept (phase ▸ hp))⟩

theorem State.SealedImage.settle (h : s.SealedImage) : s.settle.SealedImage :=
  have c := s.settle_step.control
  h.of_same c.phase c.banks c.imageState (by rw [c.op]; exact h.noJob)

/-- The running part knows that its image is sealed, so that its work begins no save or seal (R170, R173, R175). -/
theorem State.SealedImage.works (h : s.SealedImage) (w : Works s t) (stopped : s.phase ≠ .running → t.op.job? = none) :
    t.SealedImage := by
  refine h.of_same w.queue.phase w.queue.banks w.queue.imageState ?_
  by_cases hp : s.phase = .running
  · rcases w.queue.op with same | noJob | ⟨j, -, -, unsealed⟩
    · rw [same]
      exact h.noJob
    · exact noJob
    · exact absurd (h.kept (.inr hp)) unsealed
  · exact stopped hp

/-- A reset derives the image state from the banks it finds (R168). -/
theorem State.takeReset_sealedImage (h : imageStateOf s.banks = .sealed) : s.takeReset.SealedImage := by
  have fresh := s.takeReset_fresh
  exact ⟨by rw [fresh.banks]; exact h, by rw [fresh.op]; rfl, fun _ => fresh.image.trans h⟩

/-- Every happening leaves a sealed image sealed and both banks as they are, when it begins no save or seal in a part that does
not run (R175). -/
theorem State.SealedImage.happening (h : s.SealedImage) (c : Happening s t)
    (stopped : s.phase ≠ .running → t.op.job? = none) : t.SealedImage ∧ t.banks = s.banks := by
  have uncut : s.interrupt = s := State.interrupt_noJob h.noJob
  have settled : ∀ {u : State}, u.SealedImage → u.banks = s.banks → t = u.settle → t.SealedImage ∧ t.banks = s.banks :=
    fun {u} hu banks e => e ▸ ⟨hu.settle, u.settle_step.control.banks.trans banks⟩
  cases c with
  | works w => exact ⟨h.works w stopped, w.queue.banks⟩
  | fullReset u w e =>
    subst e
    exact ⟨State.takeReset_sealedImage (w.queue.banks ▸ h.banks), u.takeReset_fresh.banks.trans w.queue.banks⟩
  | reset low e =>
    rw [uncut] at e
    subst e
    exact ⟨State.takeReset_sealedImage (s := { s with rstnLow := low }) h.banks, (State.takeReset_fresh _).banks⟩
  | cleared ph hph low e =>
    rw [uncut] at e
    subst e
    refine ⟨⟨h.banks, rfl, fun hp => ?_⟩, rfl⟩
    have hp : ph = .loading ∨ ph = .running := hp
    rcases hph with rfl | rfl <;> simp at hp
  | loadEnd hp e =>
    obtain ⟨sl, po, time, fx, ends⟩ := s.endLoad_spec
    refine settled ?_ (by rw [ends]) e
    rw [ends]
    exact ⟨h.banks, h.noJob, fun _ => h.kept (.inl hp)⟩
  | commitEnd l m ho e =>
    obtain ⟨op, phase, banks, image⟩ := s.endCommit_image l m
    exact settled (h.of_same phase banks image (by rw [op]; rfl)) banks e
  | eraseEnd j hj hp e => cases h.noJob.symm.trans hj
  | writeEnd j hj hp e => cases h.noJob.symm.trans hj
  | readBackEnd j hj hp misread hm notice e => cases h.noJob.symm.trans hj

/-- Every command that answers leaves a sealed image as it is (R175). -/
theorem State.SealedImage.exec (h : s.SealedImage) {c : Instr} (e : exec c s = .next t) :
    t.SealedImage ∧ t.banks = s.banks := by
  refine h.happening (exec_happening e) fun stopped => ?_
  rcases exec_stopped_op stopped e with same | idle
  · rw [same]
    exact h.noJob
  · rw [idle]
    rfl

/-- Settles O59: an idle step changes nothing, any other is the command at the front. -/
theorem sealedForGood : Obligations.SealedForGood := by
  intro s t h e
  unfold step at e
  split at e
  · exact Host.Outcome.next.inj e ▸ ⟨h, rfl⟩
  · next c rest _ =>
    have front : State.SealedImage { s with pending := rest } := { h with }
    exact front.exec e

end Sys2Proof.Machine
end

section
/-! SUPPORT. POWER_ON, PIN_RESET and FULL_RESET, and O5 (R135, R168, R169, R172, R180). -/

namespace Sys2Proof.Machine

/-- A reset keeps what is noted of the pin. -/
theorem State.takeReset_rstnLow (s : State) : s.takeReset.rstnLow = s.rstnLow := by
  obtain ⟨q, sl, g, e, -⟩ := s.takeReset_spec
  rw [e]
  rfl

/-- Settles O5: a power-on and a pin reset cut a save or seal short and take the reset from the banks it leaves; the FULL reset that
is due is taken, and nothing follows it at once. -/
theorem resetIsTaken : Obligations.ResetIsTaken := by
  intro s
  refine ⟨fun high => ?powerOn, fun on n long => ?pinReset, fun running pending sent => ?fullReset⟩
  case powerOn =>
    have up : s.powerUp = s.interrupt.takeReset := by rw [State.powerUp, high]; rfl
    exact ⟨_, congrArg Host.Outcome.next up, _, s.interrupt_banks, s.interrupt.takeReset_fresh.of_banks rfl⟩
  case pinReset =>
    have taken : s.releaseReset n = State.takeReset { s.interrupt with rstnLow := false } :=
      (if_neg on).trans (if_pos (.inr long))
    exact ⟨_, congrArg Host.Outcome.next taken, _, s.interrupt_banks, (State.takeReset_fresh _).of_banks rfl,
      State.takeReset_rstnLow _⟩
  case fullReset =>
    have due : s.fullResetDue = true := by rw [State.fullResetDue, pending, sent]; rfl
    have taken : whenRunning (fun s => s.takeFullReset) s = s.takeReset := by
      rw [whenRunning_running running, State.takeFullReset, if_pos due, State.takeReset_settle]
    exact ⟨_, congrArg Host.Outcome.next taken, s.takeReset_fresh⟩

end Sys2Proof.Machine
end

section
/-! SUPPORT. The phases of a save or seal and the end of its read back: O49 and O50 (R165, R166, R171, R173, R174). -/

namespace Sys2Proof.Machine

variable {s v : State} {j : BankJob} {misread : List (Nat × Byte)}

/-! ### The erase and the write phase (R171, R173) -/

/-- A phase of a save or seal ends: one bank written, the job in its next phase, and then what follows at once. -/
theorem bankPhase_answers {c : Instr} {f : State → State} {m : Memory} {j' : BankJob} (running : s.phase = .running)
    (row : exec c s = .next (whenRunning f s)) (job : s.op.job? = some j)
    (ends : f s = { s with banks := s.banks.set j.target m, op := s.op.withJob j' }) : Answers c s (fun t =>
      EgressOnly { s with banks := t.banks, op := t.op } t ∧ t.op.job? = some j' ∧ t.banks.get j.target = m ∧
      t.banks.get (otherBank j.target) = s.banks.get (otherBank j.target)) := by
  refine ⟨_, settles_whenRunning running row ends, ?_⟩
  generalize hu : { s with banks := s.banks.set j.target m, op := s.op.withJob j' } = u
  have control := u.settle_step.control
  have banks : u.settle.banks = s.banks.set j.target m := by rw [control.banks, ← hu]
  have op : u.settle.op = s.op.withJob j' := by rw [control.op, ← hu]
  rw [banks, op, hu]
  exact ⟨u.settle_egress, Operation.job?_withJob job, PerBank.get_set_self _ _ _, PerBank.get_set_other _ _ (otherBank_ne _)⟩

/-- Settles O49: an erased bank reads FFh everywhere, a written one the job's bytes. -/
theorem bankPhases : Obligations.BankPhases := by
  intro s j running progress
  have job : s.op.job? = some j := by rcases progress with e | e <;> rw [e] <;> rfl
  refine ⟨fun erase => ?_, fun write => ?_⟩
  · obtain ⟨t, next, egress, phase, target, other⟩ :=
      bankPhase_answers (c := .bankEraseEnd) running rfl job (State.eraseEnds_spec job erase)
    exact ⟨t, next, egress, phase, fun a => by rw [target]; rfl, other⟩
  · obtain ⟨t, next, egress, phase, target, other⟩ :=
      bankPhase_answers (c := .bankWriteEnd) running rfl job (State.writeEnds_spec job write)
    exact ⟨t, next, egress, phase, fun a => by rw [target]; exact Memory.read_ofBytes j.bytes a, other⟩

/-! ### The end of the read back (R171, R174) -/

/-- An operand whose addresses all lie within a bank is not refused (R179; log 23). -/
theorem badAddress_within (within : ∀ x ∈ misread, x.1 < 1109) : badAddress misread = none := by
  rw [badAddress, Option.map_eq_none_iff, List.find?_eq_none]
  exact fun x hx beyond => Nat.not_le.2 (within x hx) (of_decide_eq_true beyond)

theorem Settles.of_eq {c : Instr} {u : State} (h : Settles c s u) (e : u = v) : Settles c s v := e ▸ h

/-- SAVE_END ends the read back of the save in progress (R171). -/
theorem saveEnd_settles (running : s.phase = .running) (readBack : j.phase = .readBack) (within : ∀ x ∈ misread, x.1 < 1109)
    (save : s.op = .save j) : Settles (.saveEnd misread) s
      (s.readBackEnds j misread fun ok i => .saveDone ok j.target j.saveCount i j.manager) := by
  refine settles_whenRunning running (f := fun s => s.saveEnds misread) ?_ ?_
  · simp only [exec, execSaveEnd, badAddress_within within]
  · simp only [State.saveEnds, save, readBack, if_true]

/-- SEAL_END ends the read back of the seal in progress (R174). -/
theorem sealEnd_settles (running : s.phase = .running) (readBack : j.phase = .readBack) (within : ∀ x ∈ misread, x.1 < 1109)
    (sealing : s.op = .seal j) : Settles (.sealEnd misread) s
      (s.readBackEnds j misread fun ok i => .sealDone ok j.target j.saveCount i j.manager) := by
  refine settles_whenRunning running (f := fun s => s.sealEnds misread) ?_ ?_
  · simp only [exec, execSealEnd, badAddress_within within]
  · simp only [State.sealEnds, sealing, readBack, if_true]

theorem readBackOk_iff (j : BankJob) (m : Memory) :
    readBackOk j m = true ↔ m.bytes = j.bytes ∧ checkAgrees j.bytes = true := by
  rw [readBackOk, Bool.and_eq_true, beq_iff_eq]
  exact and_congr_right fun same => by rw [same]

/-- The state `v` with the operation of `s` over, and the lease timer of `s` started afresh (R124). -/
def State.operationOver (s v : State) : State :=
  { v with
    op := .idle
    agent := { s.agent with
      lease := s.agent.lease.map (fun l => (⟨l.holder, some s.globals.leaseTimeout⟩ : Lease)) } }

/-- The end of an operation after effects that leave agent and globals alone, and its notice. -/
theorem State.endOperation_raiseNotice (agent : v.agent = s.agent) (globals : v.globals = s.globals) (body : NoticeBody) :
    (v.raiseNotice body).endOperation = s.operationOver (v.raiseNotice body) := by
  have c := (v.raiseNotice_step body).control
  rw [State.endOperation_eq, State.operationOver, c.agent.trans agent, c.globals.trans globals]

/-- A read back that agrees: the target as read, the image state derived, the notice with OK, the operation over (R171, R174). -/
theorem State.readBackEnds_agrees {b : PerBank Memory} (hb : s.banks.set j.target (s.asRead j misread) = b)
    (ok : readBackOk j (s.asRead j misread) = true) (notice : Bool → ImageState → NoticeBody) :
    s.readBackEnds j misread notice = s.operationOver
      (State.raiseNotice { s with banks := b, imageState := imageStateOf b } (notice true (imageStateOf b))) := by
  have bank : s.settleBank j (s.asRead j misread) = { s with banks := b } := by
    simp only [State.settleBank, State.bankAfter, ok, if_true, State.setBank, hb]
  simp only [State.readBackEnds, bank, ok, State.deriveImage]
  refine State.endOperation_raiseNotice (s := s) ?_ ?_ _ <;> rfl

/-- A read back that differs: the target bad, SAVE_FAILED, the image state derived, the notice with FAILED, the operation over
(R171, R174). -/
theorem State.readBackEnds_differs {b : PerBank Memory} (hb : s.banks.set j.target (failedBank s.freeIx (s.asRead j misread)) = b)
    (failed : readBackOk j (s.asRead j misread) = false) (notice : Bool → ImageState → NoticeBody) :
    s.readBackEnds j misread notice = s.operationOver
      (State.raiseNotice { State.raiseFault { s with banks := b, freeIx := s.freeIx + 1 }
        { kind := .saveFailed, seq := some (bankNumber j.target) } with imageState := imageStateOf b }
        (notice false (imageStateOf b))) := by
  have bank : s.settleBank j (s.asRead j misread) = State.raiseFault { s with banks := b, freeIx := s.freeIx + 1 }
      { kind := .saveFailed, seq := some (bankNumber j.target) } := by
    simp only [State.settleBank, State.bankAfter, failed, Bool.false_eq_true, if_false, State.setBank, hb]
  have c := (State.raiseFault_step { s with banks := b, freeIx := s.freeIx + 1 }
    { kind := .saveFailed, seq := some (bankNumber j.target) }).control
  simp only [State.readBackEnds, bank, failed, State.deriveImage, c.banks]
  refine State.endOperation_raiseNotice (s := s) ?_ ?_ _
  · exact c.agent
  · exact c.globals

/-- Settles O50: the read back agrees, or it differs and its target is a failed one. -/
theorem readBackEnds : Obligations.ReadBackEnds := by
  refine ⟨fun s j l running readBack within same agrees => ?agrees, fun s j l running readBack within differs => ?differs⟩
  case agrees =>
    have ends := State.readBackEnds_agrees (s := s) (misread := l) rfl ((readBackOk_iff j _).2 ⟨same, agrees⟩)
    exact ⟨fun save => (saveEnd_settles running readBack within save).of_eq (ends _),
      fun sealing => (sealEnd_settles running readBack within sealing).of_eq (ends _)⟩
  case differs =>
    have failed : readBackOk j (s.asRead j l) = false := by
      rw [Bool.eq_false_iff, ne_eq, readBackOk_iff]
      exact fun ⟨same, agrees⟩ => differs.elim (fun h => h same) fun h => by cases h.symm.trans agrees
    have ends := State.readBackEnds_differs (s := s) (misread := l) rfl failed
    refine ⟨s.banks.set j.target (failedBank s.freeIx (s.asRead j l)), ?_, fun bad => ?_,
      PerBank.get_set_other _ _ (otherBank_ne _), ?_⟩
    · rw [PerBank.get_set_self]
      exact failedBank_bad _ _
    · rw [PerBank.get_set_self]
      exact failedBank_asRead bad
    · exact ⟨fun save => (saveEnd_settles running readBack within save).of_eq (ends _),
        fun sealing => (sealEnd_settles running readBack within sealing).of_eq (ends _)⟩

end Sys2Proof.Machine
end

section
/-! SUPPORT. Table 11-1 and the newest bank, and O51 (R167, R179). -/

namespace Sys2Proof.Machine

variable {b : PerBank Memory}

/-- Without a valid bank there is no newest (R167). -/
theorem newestBank_eq_none (ha : b.a.condition ≠ .valid) (hb : b.b.condition ≠ .valid) : newestBank b = none := by
  cases newest : newestBank b with
  | none => rfl
  | some bk =>
    have valid := newestBank_valid newest
    cases bk
    · exact absurd valid ha
    · exact absurd valid hb

theorem newestBank_onlyA (ha : b.a.condition = .valid) (hb : b.b.condition ≠ .valid) : newestBank b = some .a := by
  unfold newestBank
  rw [ha]
  cases e : b.b.condition with
  | valid => exact absurd e hb
  | erased => rfl
  | bad => rfl

theorem newestBank_onlyB (ha : b.a.condition ≠ .valid) (hb : b.b.condition = .valid) : newestBank b = some .b := by
  unfold newestBank
  rw [hb]
  cases e : b.a.condition with
  | valid => exact absurd e ha
  | erased => rfl
  | bad => rfl

theorem newestBank_both (ha : b.a.condition = .valid) (hb : b.b.condition = .valid) :
    newestBank b = if newerCount b.b.saveCount b.a.saveCount = true then some .b else some .a := by
  unfold newestBank
  rw [ha, hb]

/-- A count is newer when it is 1 to 2147483647 ahead around the circle of 2^32 (R167). -/
theorem newerCount_iff (x y : Word32) : newerCount x y = true ↔
    1 ≤ (x.toNat + (4294967296 - y.toNat)) % 4294967296 ∧ (x.toNat + (4294967296 - y.toNat)) % 4294967296 ≤ 2147483647 := by
  have ahead : (x - y).toNat = (x.toNat + (4294967296 - y.toNat)) % 4294967296 := by
    rw [BitVec.toNat_sub, Nat.add_comm]
  rw [newerCount, Bool.and_eq_true, decide_eq_true_eq, decide_eq_true_eq, ahead]

/-- Without a valid bank the image is BLANK or CORRUPT by the erased banks (Table 11-1). -/
theorem imageStateOf_none (newest : newestBank b = none) :
    imageStateOf b = if b.a.condition = .erased ∧ b.b.condition = .erased then .blank else .corrupt := by
  unfold imageStateOf
  rw [newest]

/-- The newest bank's byte 4 says whether the image is sealed (Table 11-1, R179). -/
theorem imageStateOf_newest {bk : BankId} (newest : newestBank b = some bk) :
    imageStateOf b = if (b.get bk).read 4 = 0#8 then .valid else .sealed := by
  unfold imageStateOf
  rw [newest]
  dsimp only
  rw [Memory.sealedMark]
  by_cases mark : (b.get bk).read 4 = 0#8 <;> simp [mark]

/-- Settles O51: by the conditions of the two banks, and for two valid ones by their counts. -/
theorem imageStates : Obligations.ImageStates := by
  intro b
  refine ⟨fun ha hb => ?blank, fun ha hb bad => ?corrupt, newestBank_onlyA, newestBank_onlyB, fun ha hb => ?both,
    fun bk => imageStateOf_newest⟩
  case blank =>
    have newest : newestBank b = none := newestBank_eq_none (by rw [ha]; decide) (by rw [hb]; decide)
    exact ⟨newest, (imageStateOf_none newest).trans (if_pos ⟨ha, hb⟩)⟩
  case corrupt =>
    have newest := newestBank_eq_none ha hb
    refine ⟨newest, (imageStateOf_none newest).trans (if_neg fun ⟨ea, eb⟩ => ?_)⟩
    rcases bad with bad | bad
    · cases ea.symm.trans bad
    · cases eb.symm.trans bad
  case both =>
    rw [newestBank_both ha hb]
    simp only [newerCount_iff]

end Sys2Proof.Machine
end

section
/-! SUPPORT. The step as the command at the front, the outcome of every command, and its queue: O1 and O2 (R179, 95). -/

namespace Sys2Proof.Machine

variable {s t : State}

/-! ### The outcome of a command -/

/-- An operand that names a byte beyond the bank has a first such byte (R179; log 23). -/
theorem badAddress_beyond {misread : List (Nat × Byte)} {x : Nat × Byte} (named : x ∈ misread) (beyond : 1109 ≤ x.1) :
    ∃ a, 1109 ≤ a ∧ badAddress misread = some a := by
  cases first : badAddress misread with
  | none => exact absurd (badAddress_none first x named) (Nat.not_lt.mpr beyond)
  | some a =>
    obtain ⟨y, found, rfl⟩ := Option.map_eq_some_iff.1 first
    exact ⟨y.1, of_decide_eq_true (List.find?_some (p := fun c : Nat × Byte => decide (bankSize ≤ c.1)) found), rfl⟩

/-- The operand of a well-formed read back names no byte beyond the bank (R179). -/
theorem badAddress_misreadOk {misread : List (Nat × Byte)} (ok : misreadOk misread = true) : badAddress misread = none := by
  obtain ⟨-, within⟩ := (Laws.WellFormed.misreadOk_iff misread).1 ok
  exact badAddress_within within

/-- Only the ends of a read back look at their operand before they answer (log 23). -/
theorem exec_answers (c : Instr) (s : State) (ok : c.wf = true) : ∃ t, exec c s = .next t := by
  cases c with
  | saveEnd misread =>
    exact ⟨whenRunning (fun s => s.saveEnds misread) s, by simp only [exec, execSaveEnd, badAddress_misreadOk ok]⟩
  | sealEnd misread =>
    exact ⟨whenRunning (fun s => s.sealEnds misread) s, by simp only [exec, execSealEnd, badAddress_misreadOk ok]⟩
  | _ => exact ⟨_, rfl⟩

/-! ### The queue of waiting commands -/

theorem State.takeReset_pending (s : State) : s.takeReset.pending = s.pending := by
  obtain ⟨q, sl, g, e, -⟩ := s.takeReset_spec
  rw [e]
  rfl

/-- A save or seal cut short leaves the waiting commands (R172). -/
theorem State.interrupt_pending (s : State) : s.interrupt.pending = s.pending := by
  cases job : s.op.job? with
  | none => rw [State.interrupt_noJob job]
  | some j =>
    obtain ⟨m, n, e, -⟩ := State.interrupt_job job
    rw [e]

theorem State.settle_pending (s : State) : s.settle.pending = s.pending := s.settle_step.control.pending

theorem State.endLoad_pending (s : State) : s.endLoad.pending = s.pending := by
  obtain ⟨sl, po, time, fx, e⟩ := s.endLoad_spec
  rw [e]

/-- The records of a commit, and its notice, leave the waiting commands (R144, R145). -/
theorem State.endCommit_pending (s : State) (l : List Staged) (m : Word16) : (s.endCommit l m).pending = s.pending := by
  obtain ⟨u, applies, g, sg, ls, e, -⟩ := s.endCommit_spec l m
  rw [e, (State.raiseNotice_step _ _).control.pending]
  exact applies.pending

theorem State.readBackEnds_pending (s : State) (j : BankJob) (misread : List (Nat × Byte))
    (notice : Bool → ImageState → NoticeBody) : (s.readBackEnds j misread notice).pending = s.pending := by
  obtain ⟨q, o, n, l, g, ls, fx, e⟩ := s.readBackEnds_spec j misread notice
  rw [e]

/-- Every happening leaves the waiting commands alone: each is whole and indivisible (95). -/
theorem Happening.pending (h : Happening s t) : t.pending = s.pending := by
  cases h with
  | works w => exact w.queue.pending
  | fullReset u w e => rw [e, State.takeReset_pending, w.queue.pending]
  | reset low e => rw [e, State.takeReset_pending]; exact s.interrupt_pending
  | cleared ph hp low e => rw [e]; exact s.interrupt_pending
  | loadEnd hp e => rw [e, State.settle_pending, State.endLoad_pending]
  | commitEnd l m ho e => rw [e, State.settle_pending, State.endCommit_pending]
  | eraseEnd j hj hp e => rw [e, State.settle_pending, State.eraseEnds_spec hj hp]
  | writeEnd j hj hp e => rw [e, State.settle_pending, State.writeEnds_spec hj hp]
  | readBackEnd j hj hp misread hm notice e => rw [e, State.settle_pending, State.readBackEnds_pending]

/-- Settles O2: a well-formed command answers, a read back beyond the bank stops at its first such byte, and what a command does
is a happening, which leaves the queue alone. -/
theorem everyCommandAnswers : Obligations.EveryCommandAnswers := by
  refine ⟨exec_answers, fun l c s named beyond => ?stops, fun c s t answers => (exec_happening answers).pending⟩
  obtain ⟨a, ha, first⟩ := badAddress_beyond named beyond
  exact ⟨a, ha, by simp only [exec, execSaveEnd, first], by simp only [exec, execSealEnd, first]⟩

/-! ### The step -/

/-- A step with a command at the front of the queue takes it, the rest of the queue left behind it (log 1). -/
theorem step_front {c : Instr} {rest : List Instr} (front : s.pending = c :: rest) :
    step s = exec c { s with pending := rest } := by
  rw [step, front]

/-- A step on an empty queue idles (log 2). -/
theorem step_idle (empty : s.pending = []) : step s = .next s := by
  rw [step, empty]

/-- Settles O1: the queue has a command at its front or is empty. -/
theorem stepTakesFrontCommand : Obligations.StepTakesFrontCommand :=
  ⟨fun _ _ _ => step_front, fun _ => step_idle⟩

end Sys2Proof.Machine
end
